-- ==== Sys2Proof/Word.lean ====
section
/-! DEFINITION. The plainest types of the model: bytes, the numberings of chambers, lines, channels, classes, cabinets
and poll entries, and tables indexed by such a numbering. -/

namespace Sys2Proof

/-- One byte of a link (R173, R183). -/
abbrev Byte := BitVec 8

/-- PC1 to PC6 as 0 to 5. -/
abbrev Chamber := Fin 6

/-- L1 to L12 as 0 to 11. -/
abbrev Line := Fin 12

/-- Channels 1 to 8 of a chamber as 0 to 7. -/
abbrev Channel := Fin 8

/-- Gas classes 0 to 7; class 0 is inert. -/
abbrev GasClass := Fin 8

/-- Cabinets 1 to 4 as 0 to 3. -/
abbrev Cabinet := Fin 4

/-- Poll entries 0 to 95. -/
abbrev EntryIx := Fin 96

/-- A table with one value per index. -/
abbrev Table (α : Type) (n : Nat) := Vector α n

/-- The value a table holds at an index. -/
def Table.look {α : Type} {n : Nat} (v : Table α n) (i : Fin n) : α := v[i.val]

/-- The table with one value replaced. -/
def Table.put {α : Type} {n : Nat} (v : Table α n) (i : Fin n) (x : α) : Table α n := v.set i.val x i.isLt

@[simp] theorem Table.look_put {α : Type} {n : Nat} (v : Table α n) (i j : Fin n) (x : α) :
    (v.put i x).look j = if i = j then x else v.look j := by
  simp [Table.look, Table.put, Vector.getElem_set, Fin.ext_iff]

theorem Table.look_put_same {α : Type} {n : Nat} (v : Table α n) (i : Fin n) (x : α) : (v.put i x).look i = x := by simp

theorem Table.look_put_ne {α : Type} {n : Nat} (v : Table α n) {i j : Fin n} (x : α) (h : i ≠ j) :
    (v.put i x).look j = v.look j := by simp [h]

@[simp] theorem Table.look_replicate {α : Type} {n : Nat} (x : α) (i : Fin n) :
    Table.look (Vector.replicate n x) i = x := by simp [Table.look]

/-- Every index of a numbering, in ascending order. -/
abbrev allIx (n : Nat) : List (Fin n) := List.finRange n

end Sys2Proof
end

