-- ==== Sys2Proof/Syntax.lean ====
section
/-! DEFINITION. The commands of the part: one constructor of Instr per row of spec/opcode_table.json, with the chamber,
channel, line, input, level or bytes that say which occasion of the row is meant. A host request's row has no operand of
its own: the request is the frame at the head of the request buffer (R174, notes/assumptions/3.md). -/

namespace Sys2Proof

/-- The 26 qualified inputs (R155). -/
inductive Input where
  | emo
  | foreOk
  | exhOk
  | cabOk (n : Cabinet)
  | cfgProtect
  | lidClosed (c : Chamber)
  | turboOk (c : Chamber)
  | endpoint (c : Chamber)
  deriving DecidableEq, Repr

/-- A pin with a raw level: a qualified input, or the ARC input of a chamber (R155, R160). -/
inductive Pin where
  | qualified (i : Input)
  | arc (c : Chamber)
  deriving DecidableEq, Repr

/-- The four chamber valves with a travel time (R20). -/
inductive ChamberValve where
  | gate
  | roughSoft
  | roughFast
  | vent
  deriving DecidableEq, Repr

/-- The blocks that are told of qualified changes (R155, R159). -/
inductive NoticeOwner where
  | csq (c : Chamber)
  | fla
  | gat
  | svl
  deriving DecidableEq, Repr

/-- A complete reply on the Instrument Link: the number of the transaction in whose window it completed, which is the model's own
(notes/assumptions/50.md), and its bytes (R145). -/
structure BusReply where
  txn : Nat
  bytes : List Byte
  deriving DecidableEq, Repr

/-- The commands, in the order of the opcode table. -/
inductive Instr where
  | fullReset
  | frameReceived (b : Byte)
  | interbyteGapExpiry
  | unknownKindFrame
  | transmitFrameEnd
  | ident
  | stat
  | cfgln
  | cfgcx
  | cfgch
  | cfgmap
  | cfgpt
  | cfgfl
  | cfgiq
  | cfglk
  | rdcfg
  | ptenEnable
  | ptenDisable
  | onln
  | offln
  | step
  | abrt
  | rsus
  | rres
  | clrf
  | linePumpout
  | lineLockout
  | lineUnlock
  | rpt
  | totl
  | evmsk
  | mark
  | rset
  | rawInputChange (p : Pin) (level : Bool)
  | emoAssertion
  | qualificationExpiry (i : Input)
  | qualifiedChangeNotice (o : NoticeOwner) (i : Input)
  | arcEdge (c : Chamber)
  | arcMergeExpiry (c : Chamber)
  | valveTravelExpiry (c : Chamber) (v : ChamberValve)
  | linePumpValveTravelExpiry (l : Line)
  | holdExpiry (c : Chamber)
  | roughTimerExpiry (c : Chamber)
  | baseTimerExpiry (c : Chamber)
  | ventTimerExpiry (c : Chamber)
  | admitTimerExpiry (c : Chamber)
  | purgeTimerExpiry (c : Chamber)
  | settleTimerExpiry (c : Chamber)
  | settleLimitExpiry (c : Chamber)
  | durationExpiry (c : Chamber)
  | excursionExpiry (c : Chamber)
  | strikeTimerExpiry (c : Chamber)
  | maskExpiry (c : Chamber)
  | overetchExpiry (c : Chamber)
  | cyclePhaseExpiry (c : Chamber)
  | deviationExpiry (c : Chamber) (k : Channel)
  | pumpoutCompletion
  | removalMessage (l : Line)
  | begunMessage (l : Line)
  | stoppedMessage (l : Line)
  | completeMessage (l : Line)
  | instrumentFrameBegin
  | instrumentReply (reply : BusReply)
  | responseWindowExpiry
  | linkByteReceived (b : Byte)
  deriving DecidableEq, Repr

end Sys2Proof
end

