-- ==== Sys2Proof/Config.lean ====
section
/-! DEFINITION. What the part fixes: sizes, limits, defaults. The spec leaves no computed value open, so there is no
free value here. -/

namespace Sys2Proof.Config

/-- Frames the request buffer holds, the one being handled included (chapter 12, list before R173). -/
def requestBufferSize : Nat := 4

/-- Records the event queue holds (R177). -/
def eventQueueSize : Nat := 32

/-- Step reports a report queue holds (R39). -/
def reportQueueSize : Nat := 8

/-- Entries the urgent queue holds (R149). -/
def urgentQueueSize : Nat := 16

/-- The greatest LEN (R173). -/
def maxLen : Nat := 240

/-- The inter-byte gap in ms (R173). -/
def interByteGapMs : Nat := 2

/-- The nominal length of an instrument frame in ms (R146). -/
def instrumentFrameMs : Nat := 10

/-- The miss limit (R150). -/
def missLimit : Nat := 3

/-- The late-frame count at which SATURATED is posted (R148), and the count at which it stands (R141). -/
def saturatedAt : Nat := 5
def lateCountMax : Nat := 255

/-- The length of an arc merge timer in ms (R128), and the count at which an arc count stands. -/
def arcMergeMs : Nat := 1
def arcCountMax : Nat := 65535

/-- The greatest flow in 0.1 sccm, and the greatest flow command (00, Units). -/
def flowMax : Nat := 50000
def commandMax : Nat := 10000

/-- The greatest pressure in µTorr (00, Units; R145). -/
def pressureMax : Nat := 4000000000

/-- The zero deadband and the ceiling of a flow reading (R103). -/
def readingDeadband : Nat := 50
def readingMax : Nat := 12000

/-- The interval cap in ms (R104). -/
def intervalCapMs : Nat := 1000

/-- The divisor of consumption integration (R105), and the greatest 48-bit total. -/
def integrationDivisor : Nat := 600000000
def totalMax : Nat := 281474976710655

/-- The greatest overetch duration in ms (R127). -/
def overetchMaxMs : Nat := 3600000

/-- The greatest elapsed time a report carries (R37). -/
def elapsedMax : Nat := 4294967295

/-- The time tag's modulus (R180). -/
def tagModulus : Nat := 4294967296

/-- The qualification time after a full reset, in ms (R163). -/
def defaultQualificationMs : Nat := 2

/-- IDENT (R179). -/
def vendorCode : Nat := 0x0D06
def partCode : Nat := 0x006C
def revision : Nat := 1

end Sys2Proof.Config
end

