-- ==== Sys2Proof/Machine/State.lean ====
section
/-! DEFINITION. The state of the part: plain data, one field for each piece of state of INVENTORY.md's list, the state
after a full reset, and the updates by which the operations change it. -/

namespace Sys2Proof.Machine

/-- Raised by nobody: the part takes every command and goes on (INVENTORY.md, Faults). -/
inductive Fault where
  deriving DecidableEq, Repr

/-- Why a command has no meaning. -/
inductive Refusal where
  /-- The dispatcher's answer for a command the model gives no meaning; no arm answers so. Safe: nothing happens. -/
  | notModelled (mnemonic : String)
  deriving DecidableEq, Repr

/-- A timer: stopped, or running with the time at which it expires, on the clock `State.now`. -/
abbrev Timer := Option Nat

/-! ## Enumerations -/

/-- Chamber states (R1). -/
inductive ChState where
  | offline | ready | running | held | faulted
  deriving DecidableEq, Repr

/-- Phases, and none (R183's list). -/
inductive Phase where
  | none | waitForeline | roughSoft | roughFast | roughPaused | roughSuspended | crossover | highVac | admission
  | manifoldPurge | settle | steady | strike | etch | overetch | cyclingA | cyclingB | purging | ventIsolate | venting
  deriving DecidableEq, Repr

/-- Vacuum status (R3). -/
inductive Vac where
  | unknown | atmosphere | roughed | highvac
  deriving DecidableEq, Repr

/-- Results of a step; a recorded cause is a failing one (R7, R183's list). -/
inductive Result where
  | ok | aborted | flushed | notReady | roughTimeout | baseTimeout | ventTimeout | admitTimeout | lineLost | settleTimeout
  | strikeFail | arcLimit | noEndpoint | pressureExcursion | flowDeviation | emo | forelineLost | turbo | lid | exhaust
  | instrument
  deriving DecidableEq, Repr

/-- Step kinds (R25). -/
inductive Kind where
  | pumpdown | stabilize | plasma | cycle | purge | vent
  deriving DecidableEq, Repr

/-- How ETCH ends (R25). -/
inductive EndMode where
  | time | endpoint
  deriving DecidableEq, Repr

/-- The two slots of a chamber (R35). -/
inductive Slot where
  | a | b
  deriving DecidableEq, Repr

/-- The rough sub-phase a pause records (R48). -/
inductive SubPhase where
  | soft | fast
  deriving DecidableEq, Repr

/-- Line states (R75). -/
inductive LineState where
  | unconfigured | ready | pumpoutPending | pumpingOut | lockedOut
  deriving DecidableEq, Repr

/-- Causes in LINESTATE (R76). -/
inductive LineCause where
  | config | pumpout | begun | stopped | complete | lockout | cabinet | unlock
  deriving DecidableEq, Repr

/-- Foreline states (R58). -/
inductive FlState where
  | idle | heldChamber | heldPumpout | handover
  deriving DecidableEq, Repr

/-- The party the foreline is granted to (R58). -/
inductive Holder where
  | chamber (c : Chamber)
  | line (l : Line)
  deriving DecidableEq, Repr

/-- Instrument states (R150). -/
inductive InstState where
  | unknown | ok | failed
  deriving DecidableEq, Repr

/-- Reasons in INSTR (R150). -/
inductive InstReason where
  | reply | misses | config | enable | disable
  deriving DecidableEq, Repr

/-- Owners of poll entries (R141). -/
inductive PollOwner where
  | tool
  | chamber (c : Chamber)
  deriving DecidableEq, Repr

/-- Roles of poll entries (R141). -/
inductive Role where
  | flow (k : Channel)
  | gaugeProcess | gaugeWide | throttle | source | bias | foreline
  deriving DecidableEq, Repr

/-- Lock levels (R165). -/
inductive Lock where
  | open | guarded | locked
  deriving DecidableEq, Repr

/-- Throttle targets (R112). -/
inductive Throttle where
  | open
  | pressure (p : Nat)
  deriving DecidableEq, Repr

/-- NAK codes (R175). -/
inductive Nak where
  | badLength | unknownKind | badTarget | badValue | state | slotsFull | locked | inUse | duplicate | noChannel
  | incompatible | notConfigured | queueEmpty | queueFull
  deriving DecidableEq, Repr

/-- Event categories of the mask (R177). -/
inductive Category where
  | state | step | fault | ilock | line | foreline | instr
  deriving DecidableEq, Repr

/-- Messages of the FLA to the GAT about a listed line (R81). -/
inductive PumpMsg where
  | begun | stopped | complete
  deriving DecidableEq, Repr

/-- Messages of the GAT to the FLA (R65). -/
inductive ListMsg where
  | listing | removal
  deriving DecidableEq, Repr

/-! ## Configuration records (chapter 11) -/

/-- A line record (R166); the pump-out time is in s. -/
structure LineCfg where
  gasCode : Nat
  cls : GasClass
  gcf : Nat
  capacity : Nat
  cabinet : Cabinet
  pumpS : Nat
  deriving DecidableEq, Repr

/-- Chamber parameters (R169), in its order and units. -/
structure ChamberParams where
  gateTravel : Nat
  roughTravel : Nat
  ventTravel : Nat
  softRough : Nat
  crossover : Nat
  atmosphere : Nat
  processFullScale : Nat
  minControl : Nat
  maxControl : Nat
  roughTimeoutS : Nat
  baseTimeoutS : Nat
  ventTimeoutS : Nat
  admitLimitS : Nat
  settleLimitS : Nat
  holdLimitS : Nat
  excursionMs : Nat
  strikeMs : Nat
  purgeTimeS : Nat
  purgeLine : Option Line
  purgeFlow : Nat
  sourceMax : Nat
  biasMax : Nat
  deviationTol : Nat
  flowFaultMs : Nat
  deriving DecidableEq, Repr

/-- The defaults of R169. -/
def ChamberParams.default : ChamberParams where
  gateTravel := 200
  roughTravel := 200
  ventTravel := 200
  softRough := 100000000
  crossover := 150000
  atmosphere := 750000000
  processFullScale := 1000000
  minControl := 1000
  maxControl := 1000000
  roughTimeoutS := 300
  baseTimeoutS := 600
  ventTimeoutS := 120
  admitLimitS := 60
  settleLimitS := 30
  holdLimitS := 30
  excursionMs := 2000
  strikeMs := 1000
  purgeTimeS := 10
  purgeLine := none
  purgeFlow := 0
  sourceMax := 1000
  biasMax := 500
  deviationTol := 500
  flowFaultMs := 3000

/-- A channel map entry (R171). -/
structure MapEntry where
  line : Option Line
  fs : Nat
  floor : Nat
  ramp : Nat
  deriving DecidableEq, Repr

/-- The defaults of R171. -/
def MapEntry.default : MapEntry := { line := none, fs := 100, floor := 100, ramp := 10000 }

/-- A poll table entry's fields as last written, by their codes (R141, R172). -/
structure PollCfg where
  used : Bool
  address : Nat
  owner : Nat
  role : Nat
  period : Nat
  deriving DecidableEq, Repr

/-- An entry after a full reset (R153, R172). -/
def PollCfg.default : PollCfg := { used := false, address := 0, owner := 0, role := 0, period := 0 }

/-- Every configuration record of the part (chapter 11's table). -/
structure Cfg where
  lines : Table (Option LineCfg) 12
  matrix : Table (Table Bool 8) 8
  chambers : Table ChamberParams 6
  maps : Table (Table MapEntry 8) 6
  chain : List Chamber
  backingLimit : Nat
  resumeLevel : Nat
  pumpTravel : Nat
  poll : Table PollCfg 96
  enabled : Bool
  budget : Nat
  window : Nat
  qualMs : Table Nat 26
  lock : Lock
  deriving DecidableEq, Repr

/-- The compatibility matrix after a full reset: only the diagonal and the pairs with class 0 (R95, R96). -/
def defaultMatrix : Table (Table Bool 8) 8 :=
  (allIx 8).foldl (fun m i => m.put i
    ((allIx 8).foldl (fun r j => r.put j (decide (i = j) || decide (i = 0) || decide (j = 0)))
      (Vector.replicate 8 false))) (Vector.replicate 8 (Vector.replicate 8 false))

/-- The configuration after a full reset (R72, R95, R153, R163, R165, R169, R171). -/
def Cfg.reset : Cfg where
  lines := Vector.replicate 12 none
  matrix := defaultMatrix
  chambers := Vector.replicate 6 ChamberParams.default
  maps := Vector.replicate 6 (Vector.replicate 8 MapEntry.default)
  chain := allIx 6
  backingLimit := 500000
  resumeLevel := 300000
  pumpTravel := 200
  poll := Vector.replicate 96 PollCfg.default
  enabled := false
  budget := 40
  window := 500
  qualMs := Vector.replicate 26 Config.defaultQualificationMs
  lock := .open

/-! ## Step records and reports (chapter 2) -/

/-- A gas entry as stored: line and flow as sent, and the values of the load (R25, R29). -/
structure GasEntry where
  line : Line
  flow : Nat
  channel : Channel
  cmd : Nat
  eff : Nat
  deriving DecidableEq, Repr

/-- The warnings of a load (R34), in R183's order. -/
structure Warnings where
  flowClamped : Bool
  flowRaised : Bool
  pressureClamped : Bool
  powerClamped : Bool
  timeClamped : Bool
  toleranceClamped : Bool
  deriving DecidableEq, Repr

/-- No warning. -/
def Warnings.none : Warnings := ⟨false, false, false, false, false, false⟩

/-- A step record as stored in its slot (R25). -/
structure StepRec where
  id : Nat
  kind : Kind
  setA : List GasEntry
  setB : List GasEntry
  targetA : Nat
  targetB : Nat
  tolerance : Nat
  settleMs : Nat
  sourceA : Nat
  sourceB : Nat
  biasA : Nat
  biasB : Nat
  durationMs : Nat
  endMode : EndMode
  maskMs : Nat
  overetchPct : Nat
  phaseAMs : Nat
  phaseBMs : Nat
  firstExtMs : Nat
  cycleCount : Nat
  arcLimit : Nat
  purge : Option GasEntry
  warnings : Warnings
  deriving DecidableEq, Repr

/-- A gas accumulator of the executing step (R38, R106). -/
structure Accum where
  line : Line
  total : Nat
  rem : Nat
  deriving DecidableEq, Repr

/-- The executing-step context (chapter 1's list, R6; timers of chapters 3, 7 and 8). -/
structure StepCtx where
  record : StepRec
  slot : Slot
  startTag : Nat
  /-- when ADMIT was entered -/
  admitAt : Option Nat
  /-- the admission wait, once admitted (R88) -/
  admitWait : Option Nat
  /-- MANIFOLD_PURGE was entered (R113) -/
  purged : Bool
  /-- when the main phase was first entered (R37) -/
  mainAt : Option Nat
  /-- when ETCH was entered (R124) -/
  etchAt : Option Nat
  /-- endpoint ms (R125) -/
  endpointMs : Option Nat
  /-- when OVERETCH was entered (R127) -/
  overetchAt : Option Nat
  /-- the mask timer has expired (R125) -/
  maskDone : Bool
  firstCycle : Bool
  cycles : Nat
  arcs : Nat
  /-- least and greatest chamber pressure of the main phase (R19) -/
  minMax : Option (Nat × Nat)
  accums : List Accum
  /-- rough timer: what it held when it last stopped, and since when it runs (R47) -/
  roughHeld : Nat
  roughSince : Option Nat
  /-- the sub-phase a pause recorded (R48) -/
  paused : Option SubPhase
  baseTimer : Timer
  ventTimer : Timer
  purgeTimer : Timer
  settleLimit : Timer
  settleTimer : Timer
  duration : Timer
  excursion : Timer
  strikeTimer : Timer
  maskTimer : Timer
  overetchTimer : Timer
  cycleTimer : Timer
  deriving DecidableEq, Repr

/-- A step report (R37). -/
structure Report where
  id : Nat
  kind : Kind
  result : Result
  loss : Bool
  startTag : Nat
  endTag : Nat
  admitWait : Nat
  purged : Bool
  mainMs : Nat
  endpointMs : Option Nat
  overetchMs : Option Nat
  cycles : Option Nat
  arcs : Nat
  minMax : Option (Nat × Nat)
  warnings : Warnings
  gas : List (Line × Nat)
  deriving DecidableEq, Repr

/-! ## The blocks -/

/-- Where a valve is: closed, or counting open, with the time its travel expires (R20). -/
inductive ValvePos where
  | closed
  | opening (expiry : Nat)
  | opened
  | closing (expiry : Nat)
  deriving DecidableEq, Repr

/-- A valve output: its owner's command (true is open) and its position. -/
structure Valve where
  cmd : Bool
  pos : ValvePos
  deriving DecidableEq, Repr

/-- A valve after a full reset (R23, R73). -/
def Valve.reset : Valve := { cmd := false, pos := .closed }

/-- An entry of a holdings list or of a pending request (R84, R86). -/
structure Holding where
  line : Line
  flow : Nat
  deriving DecidableEq, Repr

/-- A pending request with its purge decision (R86). -/
structure Request where
  wants : List Holding
  purge : Bool
  deriving DecidableEq, Repr

/-- One Chamber Sequencer (chapter 1). -/
structure Csq where
  state : ChState
  phase : Phase
  vac : Vac
  cause : Option Result
  slotA : Option StepRec
  slotB : Option StepRec
  loadPtr : Slot
  runPtr : Slot
  exec : Option StepCtx
  holdings : List Holding
  residue : Table Bool 8
  processReading : Option Nat
  wideReading : Option Nat
  pressure : Option Nat
  throttlePos : Option Nat
  genReading : Option (Nat × Nat)
  biasReading : Option (Nat × Nat)
  hold : Timer
  request : Option Request
  admitTimer : Timer
  reports : List Report
  gate : Valve
  roughSoft : Valve
  roughFast : Valve
  vent : Valve
  rfEn : Bool
  throttle : Throttle
  source : Nat
  bias : Nat
  deriving DecidableEq, Repr

/-- The residue after either reset: classes 1 to 7 (R93). -/
def resetResidue : Table Bool 8 := Table.put (Vector.replicate 8 true) 0 false

/-- The residue {0} (R93). -/
def cleanResidue : Table Bool 8 := Table.put (Vector.replicate 8 false) 0 true

/-- A CSQ after a full reset (R23). -/
def Csq.reset : Csq where
  state := .offline
  phase := .none
  vac := .unknown
  cause := none
  slotA := none
  slotB := none
  loadPtr := .a
  runPtr := .a
  exec := none
  holdings := []
  residue := resetResidue
  processReading := none
  wideReading := none
  pressure := none
  throttlePos := none
  genReading := none
  biasReading := none
  hold := none
  request := none
  admitTimer := none
  reports := []
  gate := Valve.reset
  roughSoft := Valve.reset
  roughFast := Valve.reset
  vent := Valve.reset
  rfEn := false
  throttle := .open
  source := 0
  bias := 0

/-- A channel context of the FCU (R100). -/
structure ChanCtx where
  target : Nat
  current : Nat
  lastSent : Nat
  reading : Option Nat
  /-- last-reading time tag -/
  lastTime : Option Nat
  /-- deviation timer: running since -/
  deviation : Option Nat
  deriving DecidableEq, Repr

/-- A channel context after a full reset (R110). -/
def ChanCtx.reset : ChanCtx :=
  { target := 0, current := 0, lastSent := 0, reading := none, lastTime := none, deviation := none }

/-- What the GAT holds of a line besides its record (chapter 5). -/
structure LineDyn where
  state : LineState
  total : Nat
  rem : Nat
  deriving DecidableEq, Repr

/-- A line after a full reset (R96). -/
def LineDyn.reset : LineDyn := { state := .unconfigured, total := 0, rem := 0 }

/-- The Gas Allocation Table (chapter 5). -/
structure Gat where
  lines : Table LineDyn 12
  queue : List Chamber
  /-- MODEL: a release of this event has not yet been followed by its service run (notes/assumptions/22.md) -/
  serviceDue : Bool
  /-- MODEL: listings and removals the FLA has not yet taken (notes/assumptions/9.md) -/
  toFla : List (ListMsg × Line)
  deriving DecidableEq, Repr

/-- The GAT after a full reset (R96). -/
def Gat.reset : Gat := { lines := Vector.replicate 12 LineDyn.reset, queue := [], serviceDue := false, toFla := [] }

/-- An entry of the pump-out list (R65). -/
structure PumpEntry where
  line : Line
  acc : Nat
  deriving DecidableEq, Repr

/-- The Foreline Arbiter (chapter 4). -/
structure Fla where
  state : FlState
  holder : Option Holder
  waiting : Table Bool 6
  list : List PumpEntry
  /-- progress of the holding line: running since -/
  progress : Option Nat
  /-- pump-out time in force for the holding line, in ms (R77) -/
  pumpMs : Nat
  pause : Bool
  pressure : Option Nat
  pumps : Table Valve 12
  /-- MODEL: begun, stopped and complete messages the GAT has not yet taken (notes/assumptions/9.md) -/
  toGat : List (PumpMsg × Line)
  deriving DecidableEq, Repr

/-- The FLA after a full reset (R73). -/
def Fla.reset : Fla where
  state := .idle
  holder := none
  waiting := Vector.replicate 6 false
  list := []
  progress := none
  pumpMs := 0
  pause := false
  pressure := none
  pumps := Vector.replicate 12 Valve.reset
  toGat := []

/-- Schedule and instrument state of a poll entry (R141). -/
structure PollDyn where
  countdown : Nat
  due : Bool
  late : Nat
  state : InstState
  misses : Nat
  deriving DecidableEq, Repr

/-- A poll entry after a full reset (R153). -/
def PollDyn.reset : PollDyn := { countdown := 0, due := false, late := 0, state := .unknown, misses := 0 }

/-- The transaction in flight (R144, R145). -/
structure Txn where
  /-- the model's own: how many were built before it, by which a reply names it (notes/assumptions/50.md) -/
  number : Nat
  entry : EntryIx
  request : List Byte
  /-- its reply is not judged (R142) -/
  discarded : Bool
  /-- it was built before the STRIKE entry of its chamber (R122) -/
  beforeStrike : Bool
  deriving DecidableEq, Repr

/-- The Instrument Link Controller (chapter 9). -/
structure Ilc where
  poll : Table PollDyn 96
  urgent : List EntryIx
  /-- entries of the frame in progress whose transaction is not yet built -/
  frameRest : List EntryIx
  inFlight : Option Txn
  /-- when the frame in progress began -/
  frameAt : Nat
  /-- the model's own: how many transactions have been built (notes/assumptions/50.md) -/
  built : Nat
  deriving DecidableEq, Repr

/-- The ILC after a full reset (R153). -/
def Ilc.reset : Ilc :=
  { poll := Vector.replicate 96 PollDyn.reset, urgent := [], frameRest := [], inFlight := none, frameAt := 0,
    built := 0 }

/-- A qualified input (R155, R156). For EMO, CFG_PROTECT and ENDPOINT true is asserted. -/
structure InState where
  raw : Bool
  /-- none is unqualified -/
  qual : Option Bool
  timer : Timer
  deriving DecidableEq, Repr

/-- A notice of a qualified change, told and not yet taken (R159). -/
structure Notice where
  owner : NoticeOwner
  input : Input
  level : Bool
  deriving DecidableEq, Repr

/-- The Interlock Input Unit (chapter 10). -/
structure Iiu where
  inputs : Table InState 26
  arcRaw : Table Bool 6
  merge : Table Timer 6
  forcing : Bool
  /-- MODEL: notices not yet taken (notes/assumptions/10.md) -/
  notices : List Notice
  deriving DecidableEq, Repr

/-- A frame of the Supervisory Link without its start byte, LEN and CRC (R173). -/
structure Frame where
  kind : Byte
  tag : Byte
  body : List Byte
  deriving DecidableEq, Repr

/-- A reply (R175). -/
inductive ReplyBody where
  | ack (body : List Byte)
  | nak (code : Nak)
  deriving DecidableEq, Repr

structure Reply where
  tag : Byte
  body : ReplyBody
  deriving DecidableEq, Repr

/-- Events (R177), with the fields of their owning rules. -/
inductive Event where
  | chstate (c : Chamber) (state : ChState) (phase : Phase) (vac : Vac)
  | stepbegin (c : Chamber) (id : Nat) (kind : Kind)
  | stepend (c : Chamber) (id : Nat) (result : Result)
  | fault (c : Chamber) (cause : Result)
  | ilock (i : Input) (level : Bool) (first : Bool)
  | linestate (l : Line) (state : LineState) (total : Nat) (cause : LineCause)
  | foreline (state : FlState) (holder : Option Holder) (pause : Bool) (waiting : Nat)
  | instr (e : EntryIx) (owner role address : Nat) (state : InstState) (reason : InstReason)
  | saturated (e : EntryIx) (owner role count : Nat)
  | mark (value : Nat)
  deriving DecidableEq, Repr

/-- A record of the event queue (R177). -/
structure EventRec where
  tag : Nat
  event : Event
  deriving DecidableEq, Repr

/-- The Supervisory Link (chapter 12). -/
structure Svl where
  /-- none is hunting; assembling holds the bytes collected after the start byte -/
  assembler : Option (List Byte)
  gap : Timer
  buffer : List Frame
  reply : Option Reply
  events : List EventRec
  mask : Table Bool 7
  linkFault : Bool
  eventsLost : Bool
  /-- the frame in transmission -/
  tx : Option (List Byte)
  deriving DecidableEq, Repr

/-- The SVL after a full reset (R182). -/
def Svl.reset : Svl where
  assembler := none
  gap := none
  buffer := []
  reply := none
  events := []
  mask := Vector.replicate 7 true
  linkFault := false
  eventsLost := false
  tx := none

/-- The state of the part. -/
structure State where
  /-- milliseconds since the last full reset -/
  now : Nat
  cfg : Cfg
  csq : Table Csq 6
  fcu : Table (Table ChanCtx 8) 6
  gat : Gat
  fla : Fla
  ilc : Ilc
  iiu : Iiu
  svl : Svl
  /-- MODEL: the commands that wait, first in first out -/
  pending : List Instr
  deriving DecidableEq, Repr

/-- The place of a qualified input in the IIU's table, in R183's order. -/
def inputIx : Input → Fin 26
  | .emo => 0
  | .foreOk => 1
  | .exhOk => 2
  | .cabOk n => ⟨3 + n.val, by omega⟩
  | .cfgProtect => 7
  | .lidClosed c => ⟨8 + c.val, by omega⟩
  | .turboOk c => ⟨14 + c.val, by omega⟩
  | .endpoint c => ⟨20 + c.val, by omega⟩

/-- Every qualified input, in the order of their places. -/
def allInputs : List Input :=
  [.emo, .foreOk, .exhOk] ++ (allIx 4).map .cabOk ++ [.cfgProtect] ++ (allIx 6).map .lidClosed
    ++ (allIx 6).map .turboOk ++ (allIx 6).map .endpoint

/-- The normal level of an input (R155): released for EMO, CFG_PROTECT and ENDPOINT, true for the others. -/
def normalLevel : Input → Bool
  | .emo => false
  | .cfgProtect => false
  | .endpoint _ => false
  | _ => true

/-- Every pin at its normal level: the DESIGN CHOICE of notes/assumptions/6.md for State.reset. -/
def normalPins : Table Bool 26 :=
  allInputs.foldl (fun t i => t.put (inputIx i) (normalLevel i)) (Vector.replicate 26 true)

/-- The inputs after a full reset: unqualified, every timer started with 2 ms (R163). -/
def resetInputs (pins : Table Bool 26) : Table InState 26 :=
  (allIx 26).foldl (fun t i => t.put i
    { raw := pins.look i, qual := none, timer := some Config.defaultQualificationMs })
    (Vector.replicate 26 { raw := true, qual := none, timer := none })

/-- The IIU after a full reset with these pins (R163). -/
def Iiu.reset (pins : Table Bool 26) (arcPins : Table Bool 6) : Iiu where
  inputs := resetInputs pins
  arcRaw := arcPins
  merge := Vector.replicate 6 none
  forcing := true
  notices := []

/-- The part after a full reset with these pins and this queue of commands (R23, R73, R96, R110, R153, R163, R182). -/
def State.resetWith (pins : Table Bool 26) (arcPins : Table Bool 6) (pending : List Instr) : State where
  now := 0
  cfg := Cfg.reset
  csq := Vector.replicate 6 Csq.reset
  fcu := Vector.replicate 6 (Vector.replicate 8 ChanCtx.reset)
  gat := Gat.reset
  fla := Fla.reset
  ilc := Ilc.reset
  iiu := Iiu.reset pins arcPins
  svl := Svl.reset
  pending := pending

/-- The part right after reset. -/
def State.reset : State := State.resetWith normalPins (Vector.replicate 6 false) []

/-! ## Updates -/

/-- Chamber c's sequencer. -/
def State.ch (s : State) (c : Chamber) : Csq := s.csq.look c

/-- Changes chamber c's sequencer. -/
def State.modCh (s : State) (c : Chamber) (f : Csq → Csq) : State := { s with csq := s.csq.put c (f (s.ch c)) }

/-- Changes the executing-step context of chamber c, if it has one. -/
def State.modExec (s : State) (c : Chamber) (f : StepCtx → StepCtx) : State :=
  s.modCh c (fun q => { q with exec := q.exec.map f })

/-- Channel k of chamber c. -/
def State.chan (s : State) (c : Chamber) (k : Channel) : ChanCtx := (s.fcu.look c).look k

/-- Changes the context of channel k of chamber c. -/
def State.modChan (s : State) (c : Chamber) (k : Channel) (f : ChanCtx → ChanCtx) : State :=
  { s with fcu := s.fcu.put c ((s.fcu.look c).put k (f (s.chan c k))) }

/-- What the GAT holds of line l. -/
def State.ln (s : State) (l : Line) : LineDyn := s.gat.lines.look l

/-- Changes the GAT, the FLA, the ILC, the IIU, the SVL or the configuration. -/
def State.modGat (s : State) (f : Gat → Gat) : State := { s with gat := f s.gat }
def State.modFla (s : State) (f : Fla → Fla) : State := { s with fla := f s.fla }
def State.modIlc (s : State) (f : Ilc → Ilc) : State := { s with ilc := f s.ilc }
def State.modIiu (s : State) (f : Iiu → Iiu) : State := { s with iiu := f s.iiu }
def State.modSvl (s : State) (f : Svl → Svl) : State := { s with svl := f s.svl }
def State.modCfg (s : State) (f : Cfg → Cfg) : State := { s with cfg := f s.cfg }

/-- Changes what the GAT holds of line l. -/
def State.modLine (s : State) (l : Line) (f : LineDyn → LineDyn) : State :=
  s.modGat (fun g => { g with lines := g.lines.put l (f (g.lines.look l)) })

/-- A poll entry's schedule and instrument state. -/
def State.pollDyn (s : State) (e : EntryIx) : PollDyn := s.ilc.poll.look e

/-- Changes a poll entry's schedule and instrument state. -/
def State.modPoll (s : State) (e : EntryIx) (f : PollDyn → PollDyn) : State :=
  s.modIlc (fun i => { i with poll := i.poll.put e (f (i.poll.look e)) })

/-- A qualified input's state. -/
def State.inp (s : State) (i : Input) : InState := s.iiu.inputs.look (inputIx i)

/-- Changes a qualified input's state. -/
def State.modInp (s : State) (i : Input) (f : InState → InState) : State :=
  s.modIiu (fun u => { u with inputs := u.inputs.put (inputIx i) (f (u.inputs.look (inputIx i))) })

end Sys2Proof.Machine
end

