-- ==== Sys2Proof/Machine/Flags.lean ====
section
/-! DEFINITION. The status conditions the rules test: qualified levels as they are read, valves counted open, timers run
out, the pressure band, grant blocks, the configuration gate, room on a line. Nothing here changes State. -/

namespace Sys2Proof.Machine

/-! ## Time -/

/-- The time tag (R180). -/
def timeTag (s : State) : Nat := s.now % Config.tagModulus

/-- A timer has run out. -/
def timerDue (s : State) (t : Timer) : Bool :=
  match t with
  | none => false
  | some d => decide (d ≤ s.now)

/-- The remaining ms of a timer, 0 when stopped or run out. -/
def timerLeft (s : State) (t : Timer) : Nat :=
  match t with
  | none => 0
  | some d => d - s.now

/-! ## Levels (R155) -/

/-- The level an unqualified input is read as (R155). -/
def unqualifiedAs (i : Input) : Bool :=
  match i with
  | .emo => true
  | .cfgProtect => true
  | _ => false

/-- The level the owners read (R155). For EMO, CFG_PROTECT and ENDPOINT true is asserted. -/
def levelRead (s : State) (i : Input) : Bool :=
  match (s.inp i).qual with
  | none => unqualifiedAs i
  | some l => l

/-- EMO is asserted, or not yet qualified. -/
def emoAsserted (s : State) : Bool := levelRead s .emo
def foreOk (s : State) : Bool := levelRead s .foreOk
def exhOk (s : State) : Bool := levelRead s .exhOk
def lidClosed (s : State) (c : Chamber) : Bool := levelRead s (.lidClosed c)
def turboOk (s : State) (c : Chamber) : Bool := levelRead s (.turboOk c)
def endpointAsserted (s : State) (c : Chamber) : Bool := levelRead s (.endpoint c)
def cabinetOk (s : State) (n : Cabinet) : Bool := levelRead s (.cabOk n)
def cfgProtected (s : State) : Bool := levelRead s .cfgProtect

/-! ## Valves (R20) -/

/-- A valve counts open from its open command until its closing travel has expired (R20). -/
def Valve.countsOpen (v : Valve) : Bool := decide (v.pos ≠ .closed)

/-- A valve is closed and commanded closed (R20, "Closed" of chapter 0). -/
def Valve.isClosed (v : Valve) : Bool := !v.cmd && decide (v.pos = .closed)

/-- A travel of the valve has run out. -/
def Valve.travelDue (s : State) (v : Valve) : Bool :=
  match v.pos with
  | .opening d => decide (d ≤ s.now)
  | .closing d => decide (d ≤ s.now)
  | _ => false

/-- Either rough valve counts open. -/
def Csq.roughOpen (q : Csq) : Bool := q.roughSoft.countsOpen || q.roughFast.countsOpen

/-- Both rough valves are closed. -/
def Csq.roughClosed (q : Csq) : Bool := q.roughSoft.isClosed && q.roughFast.isClosed

/-- Some rough valve or line pump valve counts open (R58). -/
def forelineValveOpen (s : State) : Bool :=
  (allIx 6).any (fun c => (s.ch c).roughOpen) || (allIx 12).any (fun l => (s.fla.pumps.look l).countsOpen)

/-- A stick valve is open exactly while its target is above 0 and outputs are not forced (R102, R158). -/
def stickOpen (s : State) (c : Chamber) (k : Channel) : Bool :=
  decide (0 < (s.chan c k).target) && !s.iiu.forcing

/-- Any stick valve of the chamber is open. -/
def anyStickOpen (s : State) (c : Chamber) : Bool := (allIx 8).any (stickOpen s c)

/-- RF_EN is on: commanded, and outputs not forced (R21, R158). -/
def rfOn (s : State) (c : Chamber) : Bool := (s.ch c).rfEn && !s.iiu.forcing

/-! ## Chambers -/

def Csq.running (q : Csq) : Bool := decide (q.state = .running)

/-- The chamber is RUNNING in the given phase. -/
def Csq.inPhase (q : Csq) (p : Phase) : Bool := decide (q.state = .running) && decide (q.phase = p)

/-- The contents of a slot. -/
def Csq.slot (q : Csq) : Slot → Option StepRec
  | .a => q.slotA
  | .b => q.slotB

/-- The other slot. -/
def Slot.other : Slot → Slot
  | .a => .b
  | .b => .a

/-- The main phases of the six kinds (chapter 0, Words). -/
def Phase.isMain : Phase → Bool
  | .highVac => true
  | .steady => true
  | .etch => true
  | .overetch => true
  | .cyclingA => true
  | .cyclingB => true
  | .purging => true
  | .venting => true
  | _ => false

/-- The phases in which arcs are counted (R128). -/
def Phase.countsArcs : Phase → Bool
  | .strike => true
  | .etch => true
  | .overetch => true
  | .cyclingA => true
  | .cyclingB => true
  | _ => false

/-- The phases in which the rough timer may run and expire (R47). -/
def Phase.timesRough : Phase → Bool
  | .roughSoft => true
  | .roughFast => true
  | .roughPaused => true
  | .roughSuspended => true
  | _ => false

/-- STABILIZE, PLASMA, CYCLE and PURGE are the process steps (chapter 1). -/
def Kind.isProcess : Kind → Bool
  | .pumpdown => false
  | .vent => false
  | _ => true

/-- In band: |P - T| x 100 at most t x T (R115). A pressure of none is out of band. -/
def inBand (p : Option Nat) (target tol : Nat) : Bool :=
  match p with
  | none => false
  | some v => decide (((v - target) + (target - v)) * 100 ≤ tol * target)

/-- The ms the rough timer has counted (R47). -/
def StepCtx.roughElapsed (e : StepCtx) (now : Nat) : Nat :=
  match e.roughSince with
  | none => e.roughHeld
  | some t => e.roughHeld + (now - t)

/-- The running rough timer has reached the rough timeout, in a phase in which its expiry can be taken (R47). -/
def roughDue (s : State) (c : Chamber) : Bool :=
  match (s.ch c).exec with
  | none => false
  | some e => (s.ch c).phase.timesRough && e.roughSince.isSome && decide ((s.cfg.chambers.look c).roughTimeoutS * 1000 ≤ e.roughElapsed s.now)

/-- A running deviation timer has reached the flow fault time (R108). -/
def deviationDue (s : State) (c : Chamber) (k : Channel) : Bool :=
  match (s.chan c k).deviation with
  | none => false
  | some t => decide ((s.cfg.chambers.look c).flowFaultMs ≤ s.now - t)

/-! ## Poll table (R141) -/

/-- The owner a code names (R183). -/
def ownerOf (code : Nat) : Option PollOwner :=
  if code = 0 then some .tool
  else if h : code - 1 < 6 then some (.chamber ⟨code - 1, h⟩)
  else none

/-- The role a code names (R183). -/
def roleOf (code : Nat) : Option Role :=
  if h : code < 8 then some (.flow ⟨code, h⟩)
  else match code with
    | 8 => some .gaugeProcess
    | 9 => some .gaugeWide
    | 10 => some .throttle
    | 11 => some .source
    | 12 => some .bias
    | 13 => some .foreline
    | _ => none

/-- A used entry with this owner and role. -/
def PollCfg.serves (p : PollCfg) (o : PollOwner) (r : Role) : Bool :=
  p.used && decide (ownerOf p.owner = some o) && decide (roleOf p.role = some r)

/-- The entry with this owner and role, if any (R141: at most one). -/
def findEntry (s : State) (o : PollOwner) (r : Role) : Option EntryIx :=
  (allIx 96).find? (fun e => (s.cfg.poll.look e).serves o r)

/-- A used entry owned by the chamber. -/
def ownedBy (s : State) (c : Chamber) (e : EntryIx) : Bool :=
  (s.cfg.poll.look e).used && decide (ownerOf (s.cfg.poll.look e).owner = some (.chamber c))

/-- Some used entry of the chamber is FAILED (R4). -/
def anyFailed (s : State) (c : Chamber) : Bool :=
  (allIx 96).any (fun e => ownedBy s c e && decide ((s.pollDyn e).state = .failed))

/-- Every required instrument of the chamber is OK (R4, R17). -/
def allInstrumentsOk (s : State) (c : Chamber) : Bool :=
  (allIx 96).all (fun e => !ownedBy s c e || decide ((s.pollDyn e).state = .ok))

/-! ## Foreline (R62) -/

/-- The used FORELINE entry is FAILED (R62). -/
def gaugeBlock (s : State) : Bool :=
  match findEntry s .tool .foreline with
  | none => false
  | some e => decide ((s.pollDyn e).state = .failed)

/-- Some grant block is in force (R62). -/
def grantBlocked (s : State) : Bool := emoAsserted s || !foreOk s || gaugeBlock s

/-- The chamber holds the foreline for roughing (R41). -/
def holdsForeline (s : State) (c : Chamber) : Bool := decide (s.fla.holder = some (.chamber c))

/-- The number of chambers in the waiting set. -/
def waitingCount (s : State) : Nat := ((allIx 6).filter (fun c => s.fla.waiting.look c)).length

/-- The ms the holding line's pump-out has accumulated (R66), standing at its pump-out time. -/
def PumpEntry.progress (s : State) (p : PumpEntry) : Nat :=
  match s.fla.progress with
  | none => p.acc
  | some t => min (p.acc + (s.now - t)) s.fla.pumpMs

/-! ## Gas (R84, R86, R87) -/

/-- The flow a holdings list has for a line, none without an entry. -/
def flowOn (hs : List Holding) (l : Line) : Option Nat := (hs.find? (fun h => h.line = l)).map (·.flow)

/-- The allocated total of a line: the sum of the flows held on it by all chambers (R84). -/
def allocated (s : State) (l : Line) : Nat :=
  (allIx 6).foldl (fun n c => n + ((flowOn (s.ch c).holdings l).getD 0)) 0

/-- The two classes are marked compatible (R95). -/
def compatible (s : State) (i j : GasClass) : Bool := (s.cfg.matrix.look i).look j

/-- The class of a line with a record. -/
def classOf (s : State) (l : Line) : Option GasClass := (s.cfg.lines.look l).map (·.cls)

/-- One line of a request fits: READY, with room beside what the other chambers hold (R87). -/
def fits (s : State) (c : Chamber) (w : Holding) : Bool :=
  match s.cfg.lines.look w.line with
  | none => false
  | some r =>
    decide ((s.ln w.line).state = .ready) &&
      decide (allocated s w.line - (flowOn (s.ch c).holdings w.line).getD 0 + w.flow ≤ r.capacity)

/-- The admission test (R87). -/
def admissible (s : State) (c : Chamber) (r : Request) : Bool := r.wants.all (fits s c)

/-! ## Configuration gate (R164) -/

/-- The gate passes (R164). -/
def gateOpen (s : State) : Bool :=
  match s.cfg.lock with
  | .open => true
  | .guarded => !cfgProtected s
  | .locked => false

/-- Every chamber is OFFLINE. -/
def allOffline (s : State) : Bool := (allIx 6).all (fun c => decide ((s.ch c).state = .offline))

end Sys2Proof.Machine
end

