-- ==== Sys2Proof/Machine/Ops.lean ====
section
/-! DEFINITION. The shared operations of the blocks: posting an event, commanding a valve, placing an urgent mark, setting
a flow, throttle or generator target, filing a report, releasing holdings. -/

namespace Sys2Proof.Machine

/-! ## Events (R177) -/

/-- The mask category of an event; MARK has none (R177). -/
def Event.category : Event → Option Category
  | .chstate .. => some .state
  | .stepbegin .. => some .step
  | .stepend .. => some .step
  | .fault .. => some .fault
  | .ilock .. => some .ilock
  | .linestate .. => some .line
  | .foreline .. => some .foreline
  | .instr .. => some .instr
  | .saturated .. => some .instr
  | .mark _ => none

/-- The place of a category in the mask (R177's order). -/
def Category.ix : Category → Fin 7
  | .state => 0
  | .step => 1
  | .fault => 2
  | .ilock => 3
  | .line => 4
  | .foreline => 5
  | .instr => 6

/-- The mask lets the event through (R177). -/
def unmasked (s : State) (e : Event) : Bool :=
  match e.category with
  | none => true
  | some k => s.svl.mask.look k.ix

/-- Posts an event: dropped by the mask, dropped with events-lost set, or appended with the time tag (R177). -/
def post (e : Event) (s : State) : State :=
  if !unmasked s e then s
  else if Config.eventQueueSize ≤ s.svl.events.length then s.modSvl (fun v => { v with eventsLost := true })
  else s.modSvl (fun v => { v with events := v.events ++ [{ tag := timeTag s, event := e }] })

/-- Posts CHSTATE with the values as they stand (R2). -/
def postChstate (c : Chamber) (s : State) : State :=
  post (.chstate c (s.ch c).state (s.ch c).phase (s.ch c).vac) s

/-- Posts FORELINE with the values as they stand (R59). -/
def postForeline (s : State) : State :=
  post (.foreline s.fla.state s.fla.holder s.fla.pause (waitingCount s)) s

/-! ## Valves (R20, R158) -/

/-- An open command. It counts open at once; in closing travel that travel is cancelled. Under output forcing the command
stands and the valve does not move (R158). -/
def Valve.commandOpen (now travel : Nat) (forced : Bool) (v : Valve) : Valve :=
  { cmd := true
    pos := if forced then v.pos else
      match v.pos with
      | .opened => .opened
      | .opening d => .opening d
      | _ => .opening (now + travel) }

/-- The valve's drive goes off: one that counts open and is not closing starts its closing travel (R20, R158). -/
def ValvePos.drop (now travel : Nat) (p : ValvePos) : ValvePos :=
  match p with
  | .closed => .closed
  | .closing d => .closing d
  | _ => .closing (now + travel)

/-- A close command (R20). -/
def Valve.commandClose (now travel : Nat) (v : Valve) : Valve := { cmd := false, pos := v.pos.drop now travel }

/-- Output forcing begins: the command stands, the drive goes off (R158). -/
def Valve.force (now travel : Nat) (v : Valve) : Valve := { v with pos := v.pos.drop now travel }

/-- Output forcing ends: the output follows its command again (R158). -/
def Valve.unforce (now travel : Nat) (v : Valve) : Valve :=
  if v.cmd then v.commandOpen now travel false else v

/-- A travel that has run out ends (R20). -/
def Valve.expire (v : Valve) : Valve :=
  { v with pos := match v.pos with
      | .opening _ => .opened
      | .closing _ => .closed
      | p => p }

/-- One of the four chamber valves. -/
def Csq.valve (q : Csq) : ChamberValve → Valve
  | .gate => q.gate
  | .roughSoft => q.roughSoft
  | .roughFast => q.roughFast
  | .vent => q.vent

/-- Replaces one of the four chamber valves. -/
def Csq.setValve (q : Csq) (v : ChamberValve) (x : Valve) : Csq :=
  match v with
  | .gate => { q with gate := x }
  | .roughSoft => { q with roughSoft := x }
  | .roughFast => { q with roughFast := x }
  | .vent => { q with vent := x }

/-- The travel time of a chamber valve (R20). -/
def travelOf (s : State) (c : Chamber) : ChamberValve → Nat
  | .gate => (s.cfg.chambers.look c).gateTravel
  | .roughSoft => (s.cfg.chambers.look c).roughTravel
  | .roughFast => (s.cfg.chambers.look c).roughTravel
  | .vent => (s.cfg.chambers.look c).ventTravel

/-- Commands a chamber valve closed. -/
def closeValve (c : Chamber) (v : ChamberValve) (s : State) : State :=
  s.modCh c (fun q => q.setValve v ((q.valve v).commandClose s.now (travelOf s c v)))

/-- Commands both rough valves closed. -/
def closeRough (c : Chamber) (s : State) : State := closeValve c .roughFast (closeValve c .roughSoft s)

/-- Commands a chamber valve open, with no test of its group's conditions. -/
def driveOpen (c : Chamber) (v : ChamberValve) (s : State) : State :=
  s.modCh c (fun q => q.setValve v ((q.valve v).commandOpen s.now (travelOf s c v) s.iiu.forcing))

/-- GATE may be commanded open: both rough valves and VENT closed (R20). -/
def Csq.mayOpenGate (q : Csq) : Bool := q.roughClosed && q.vent.isClosed

/-- VENT may be commanded open: GATE and both rough valves closed (R20). -/
def Csq.mayOpenVent (q : Csq) : Bool := q.gate.isClosed && q.roughClosed

/-- A rough valve may be commanded open: GATE and VENT closed, the foreline held by the chamber (R20). -/
def mayOpenRough (c : Chamber) (s : State) : Bool :=
  (s.ch c).gate.isClosed && (s.ch c).vent.isClosed && holdsForeline s c

/-- Commands GATE open if its conditions hold (R20). -/
def openGate (c : Chamber) (s : State) : State := if (s.ch c).mayOpenGate then driveOpen c .gate s else s

/-- Commands VENT open if its conditions hold (R20). -/
def openVent (c : Chamber) (s : State) : State := if (s.ch c).mayOpenVent then driveOpen c .vent s else s

/-! ## The rough timer (R47) -/

/-- Runs the rough timer from now, if it stands still. -/
def startRoughTimer (c : Chamber) (s : State) : State :=
  s.modExec c (fun e => { e with roughSince := some (e.roughSince.getD s.now) })

/-- Stops the rough timer, keeping what it has counted. -/
def stopRoughTimer (c : Chamber) (s : State) : State :=
  s.modExec c (fun e => { e with roughHeld := e.roughElapsed s.now, roughSince := none })

/-- The open commands of ROUGH_SOFT and ROUGH_FAST: given when R20's conditions hold, otherwise the phase waits for a
travel expiry (R45, R46). The rough timer runs from the moment a valve is opened (R47). -/
def openRough (c : Chamber) (s : State) : State :=
  if mayOpenRough c s then
    let s := driveOpen c .roughSoft s
    let s := if (s.ch c).phase = .roughFast then driveOpen c .roughFast s else s
    if (s.ch c).roughOpen then startRoughTimer c s else s
  else s

/-! ## Phases -/

/-- Enters a phase: the excursion timer is stopped (R120) and one CHSTATE is posted (R2). -/
def enterPhase (c : Chamber) (p : Phase) (s : State) : State :=
  postChstate c (s.modCh c (fun q =>
    { q with phase := p, exec := q.exec.map (fun e => { e with excursion := none }) }))

/-- Starts the main-phase elapsed time at the first entry into the main phase (R37). -/
def startMain (c : Chamber) (s : State) : State :=
  s.modExec c (fun e => { e with mainAt := some (e.mainAt.getD s.now) })

/-! ## Urgent marks (R149) -/

/-- The ILC takes an urgent mark for a chamber's entry of a role (R149). -/
def urgentMark (c : Chamber) (r : Role) (s : State) : State :=
  if !s.cfg.enabled then s
  else match findEntry s (.chamber c) r with
    | none => s
    | some e =>
      if e ∈ s.ilc.urgent then s
      else if Config.urgentQueueSize ≤ s.ilc.urgent.length then s
      else s.modIlc (fun i => { i with urgent := i.urgent ++ [e] })

/-! ## Targets (R22, R100, R102, R112) -/

/-- A class joins the manifold residue (R93). -/
def addResidue (c : Chamber) (g : Option GasClass) (s : State) : State :=
  match g with
  | none => s
  | some g => s.modCh c (fun q => { q with residue := q.residue.put g true })

/-- The class of the line bound to a channel. -/
def channelClass (s : State) (c : Chamber) (k : Channel) : Option GasClass :=
  ((s.cfg.maps.look c).look k).line.bind (classOf s)

/-- Sets a flow target. A change stops the deviation timer (R100), moves the stick valve, which adds its class to the
residue when it opens (R93, R102), and places an urgent mark (R22). -/
def setTarget (c : Chamber) (k : Channel) (v : Nat) (s : State) : State :=
  if (s.chan c k).target = v then s
  else
    let opens := decide ((s.chan c k).target = 0)
    let s := s.modChan c k (fun x => { x with target := v, deviation := none })
    let s := if opens then addResidue c (channelClass s c k) s else s
    urgentMark c (.flow k) s

/-- Sets every flow target of a chamber, in channel order. -/
def setTargets (c : Chamber) (want : Channel → Nat) (s : State) : State :=
  (allIx 8).foldl (fun s k => setTarget c k (want k) s) s

/-- Every flow target 0. -/
def zeroTargets (c : Chamber) (s : State) : State := setTargets c (fun _ => 0) s

/-- Every current command 0 at once (R100). -/
def zeroCurrents (c : Chamber) (s : State) : State :=
  (allIx 8).foldl (fun s k => s.modChan c k (fun x => { x with current := 0 })) s

/-- Every deviation timer of the chamber stopped and cleared (R107). -/
def clearDeviations (c : Chamber) (s : State) : State :=
  (allIx 8).foldl (fun s k => s.modChan c k (fun x => { x with deviation := none })) s

/-- Sets the throttle target (R112). -/
def setThrottle (c : Chamber) (t : Throttle) (s : State) : State :=
  if (s.ch c).throttle = t then s
  else urgentMark c .throttle (s.modCh c (fun q => { q with throttle := t }))

/-- Sets the source setpoint (R21, R22). -/
def setSource (c : Chamber) (w : Nat) (s : State) : State :=
  if (s.ch c).source = w then s
  else urgentMark c .source (s.modCh c (fun q => { q with source := w }))

/-- Sets the bias setpoint (R21, R22). -/
def setBias (c : Chamber) (w : Nat) (s : State) : State :=
  if (s.ch c).bias = w then s
  else urgentMark c .bias (s.modCh c (fun q => { q with bias := w }))

/-- RF_EN off and both setpoints 0 (R7, R11, R15). -/
def stopRf (c : Chamber) (s : State) : State :=
  setBias c 0 (setSource c 0 (s.modCh c (fun q => { q with rfEn := false })))

/-! ## Holdings (R84, R85) -/

/-- The chamber leaves the admission queue; its pending request and admission timer are discarded (R92). -/
def leaveQueue (c : Chamber) (s : State) : State :=
  (s.modCh c (fun q => { q with request := none, admitTimer := none })).modGat
    (fun g => { g with queue := g.queue.filter (fun d => d ≠ c) })

/-- A service run is owed (R85). -/
def oweService (s : State) : State := s.modGat (fun g => { g with serviceDue := true })

/-- Releases all holdings of a chamber, whose flow targets are 0 (R85). -/
def releaseHoldings (c : Chamber) (s : State) : State :=
  let s := leaveQueue c s
  if (s.ch c).holdings = [] then s
  else oweService (s.modCh c (fun q => { q with holdings := [] }))

/-! ## Reports (R37, R39) -/

/-- Files a report, removing the oldest from a full queue (R39). -/
def fileReport (c : Chamber) (r : Report) (s : State) : State :=
  s.modCh c (fun q =>
    if q.reports.length < Config.reportQueueSize then { q with reports := q.reports ++ [{ r with loss := false }] }
    else { q with reports := q.reports.tail ++ [{ r with loss := true }] })

/-! ## Line states (R76) -/

/-- A line enters a state and LINESTATE is posted (R76). DEDUCED: the total it carries is the one that stands as it is posted, so at a
lockout with holders it is what they still hold, since R83 posts it before they are faulted (notes/assumptions/44.md). -/
def setLineState (l : Line) (st : LineState) (cause : LineCause) (s : State) : State :=
  let s := s.modLine l (fun x => { x with state := st })
  post (.linestate l st (allocated s l) cause) s

end Sys2Proof.Machine
end

