-- ==== Sys2Proof/Machine/Foreline.lean ====
section
/-! DEFINITION. The Foreline Arbiter (chapter 4) and the chamber's side of its messages (R41): grants, handovers, the
backing pause, line pump-outs. -/

namespace Sys2Proof.Machine

/-! ## Line pump valves and messages -/

/-- Changes a line pump valve. -/
def modPump (l : Line) (f : Valve → Valve) (s : State) : State :=
  s.modFla (fun a => { a with pumps := a.pumps.put l (f (a.pumps.look l)) })

/-- Commands a line's pump valve closed (R65, R67, R68). -/
def closePump (l : Line) (s : State) : State := modPump l (fun v => v.commandClose s.now s.cfg.pumpTravel) s

/-- Commands a line's pump valve open, if the foreline is granted to the line (R58, R66). -/
def openPump (l : Line) (s : State) : State :=
  if s.fla.holder = some (.line l) then modPump l (fun v => v.commandOpen s.now s.cfg.pumpTravel s.iiu.forcing) s else s

/-- Sends the GAT a message about a line (R81). -/
def sendGat (m : PumpMsg) (l : Line) (s : State) : State := s.modFla (fun a => { a with toGat := a.toGat ++ [(m, l)] })

/-- Stops the holding line's progress and keeps its accumulated ms (R66, R67). -/
def stopProgress (s : State) : State :=
  match s.fla.holder with
  | some (.line l) =>
    s.modFla (fun a =>
      { a with list := a.list.map (fun p => if p.line = l then { p with acc := p.progress s } else p), progress := none })
  | _ => s.modFla (fun a => { a with progress := none })

/-! ## The chamber's side (R41 to R48) -/

/-- The rough sub-phase chosen from the chamber pressure (R44). -/
def subPhaseAt (c : Chamber) (s : State) : SubPhase :=
  match (s.ch c).pressure with
  | none => .soft
  | some p => if (s.cfg.chambers.look c).softRough < p then .soft else .fast

/-- The phase of a rough sub-phase. -/
def SubPhase.phase : SubPhase → Phase
  | .soft => .roughSoft
  | .fast => .roughFast

/-- Enters a rough sub-phase and opens its valves (R45, R46). -/
def enterSub (c : Chamber) (p : SubPhase) (s : State) : State := openRough c (enterPhase c p.phase s)

/-- The CSQ takes a grant, with a pause notice while the backing pause is set (R41, R44). -/
def takeGrant (c : Chamber) (s : State) : State :=
  if !(s.ch c).inPhase .waitForeline then s
  else if s.fla.pause then
    enterPhase c .roughPaused (s.modExec c (fun e => { e with paused := some (subPhaseAt c s) }))
  else enterSub c (subPhaseAt c s) s

/-- The CSQ takes a pause notice (R48). -/
def takePause (c : Chamber) (s : State) : State :=
  if (s.ch c).inPhase .roughSoft then
    enterPhase c .roughPaused (closeRough c (s.modExec c (fun e => { e with paused := some .soft })))
  else if (s.ch c).inPhase .roughFast then
    enterPhase c .roughPaused (closeRough c (s.modExec c (fun e => { e with paused := some .fast })))
  else s

/-- The CSQ takes a resume notice (R48). -/
def takeResume (c : Chamber) (s : State) : State :=
  if (s.ch c).inPhase .roughPaused then
    enterSub c (((s.ch c).exec.bind (·.paused)).getD (subPhaseAt c s)) s
  else s

/-! ## The grant decision (R62) -/

/-- The foreline becomes or stays IDLE (R62). -/
def toIdle (s : State) : State :=
  if s.fla.state = .idle ∧ s.fla.holder = none then s
  else postForeline (s.modFla (fun a => { a with state := .idle, holder := none, progress := none }))

/-- The foreline is granted to a chamber (R62). -/
def grantChamber (c : Chamber) (s : State) : State :=
  takeGrant c (postForeline (s.modFla (fun a =>
    { a with state := .heldChamber, holder := some (.chamber c), waiting := a.waiting.put c false, progress := none })))

/-- The pump-out time of a line's record, in ms (R66). -/
def pumpTimeMs (s : State) (l : Line) : Nat :=
  match s.cfg.lines.look l with
  | none => 0
  | some r => r.pumpS * 1000

/-- No chamber waits: the head of the pump-out list is granted the foreline; a line whose progress is already complete
completes in the same event and the decision goes on with the next (R62, R66, R68). -/
def grantLines : List PumpEntry → State → State
  | [], s => toIdle s
  | p :: rest, s =>
    let ms := pumpTimeMs s p.line
    let s := s.modFla (fun a =>
      { a with state := .heldPumpout, holder := some (.line p.line), pumpMs := ms, progress := none, list := p :: rest })
    let s := postForeline (sendGat .begun p.line s)
    if ms ≤ p.acc then
      grantLines rest (sendGat .complete p.line (s.modFla (fun a => { a with list := rest, holder := none })))
    else if s.fla.pause then s
    else openPump p.line (s.modFla (fun a => { a with progress := some s.now }))

/-- The grant decision (R62). -/
def grantDecision (s : State) : State :=
  if grantBlocked s then toIdle s
  else match s.cfg.chain.find? (fun c => s.fla.waiting.look c) with
    | some c => grantChamber c s
    | none => grantLines s.fla.list s

/-- The holder has left: HANDOVER while a valve into the foreline counts open, else the decision at once (R58). -/
def vacate (s : State) : State :=
  let s := s.modFla (fun a => { a with holder := none, progress := none })
  if forelineValveOpen s then postForeline (s.modFla (fun a => { a with state := .handover }))
  else grantDecision s

/-- At the expiry of the last closing travel HANDOVER ends with the decision (R58). -/
def handoverCheck (s : State) : State :=
  if s.fla.state = .handover ∧ forelineValveOpen s = false then grantDecision s else s

/-- The decision when the last grant block has cleared while the foreline is IDLE (R62, R69). -/
def blockCleared (s : State) : State :=
  if s.fla.state = .idle ∧ grantBlocked s = false then grantDecision s else s

/-! ## Leaving the foreline (R61) -/

/-- A withdrawal (R61). -/
def withdraw (c : Chamber) (s : State) : State := s.modFla (fun a => { a with waiting := a.waiting.put c false })

/-- A release, accepted from the holder (R61). -/
def releaseForeline (c : Chamber) (s : State) : State := if holdsForeline s c then vacate s else s

/-- The chamber leaves the waiting set and releases the foreline if it holds it. -/
def leaveForeline (c : Chamber) (s : State) : State := releaseForeline c (withdraw c s)

/-! ## Pump-outs (R65 to R71) -/

/-- The holding pump-out yields or stops; a foreline that no line holds is left as it is (R67, R71). -/
def yieldPumpout (s : State) : State :=
  match s.fla.holder with
  | some (.line l) => vacate (sendGat .stopped l (closePump l (stopProgress s)))
  | _ => s

/-- A listing (R65). -/
def takeListing (l : Line) (s : State) : State :=
  if s.fla.list.any (fun p => p.line = l) then s
  else blockCleared (s.modFla (fun a => { a with list := a.list ++ [{ line := l, acc := 0 }] }))

/-- Removes a line's entry from the pump-out list. -/
def dropEntry (l : Line) (s : State) : State :=
  s.modFla (fun a => { a with list := a.list.filter (fun p => p.line ≠ l) })

/-- A removal (R65). -/
def takeRemoval (l : Line) (s : State) : State :=
  if s.fla.holder = some (.line l) then vacate (dropEntry l (closePump l s))
  else dropEntry l s

/-- The holding line whose accumulated ms have reached its pump-out time (R68). -/
def completedLine (s : State) : Option Line :=
  match s.fla.holder with
  | some (.line l) =>
    match s.fla.list.find? (fun p => p.line = l) with
    | some p => if s.fla.pumpMs ≤ p.progress s then some l else none
    | none => none
  | _ => none

/-- A pump-out completes (R68). -/
def completePumpout (l : Line) (s : State) : State := vacate (sendGat .complete l (dropEntry l (closePump l s)))

/-! ## Requests (R43, R60) -/

/-- A roughing entry's request: granted in answer, or WAIT_FORELINE, where the rough timer is stopped (R43, R44, R60). -/
def requestForeline (c : Chamber) (s : State) : State :=
  let idle := decide (s.fla.state = .idle) && !grantBlocked s
  let s := s.modCh c (fun q => { q with phase := .waitForeline, exec := q.exec.map (fun e => { e with excursion := none }) })
  let s := stopRoughTimer c s
  let s := s.modFla (fun a => { a with waiting := a.waiting.put c true })
  if idle then
    let s := grantDecision s
    if (s.ch c).phase = .waitForeline then postChstate c s else s
  else yieldPumpout (postChstate c s)

/-! ## Backing pressure (R64, R69) -/

/-- The backing pause flag changes: FORELINE is posted and the FLA acts on the holder (R59, R64). -/
def setPause (b : Bool) (s : State) : State :=
  if s.fla.pause = b then s
  else
    let s := postForeline (s.modFla (fun a => { a with pause := b }))
    match s.fla.holder, b with
    | some (.chamber c), true => takePause c s
    | some (.chamber c), false => takeResume c s
    | some (.line l), true => closePump l (stopProgress s)
    | some (.line l), false => openPump l (s.modFla (fun a => { a with progress := some s.now }))
    | none, _ => s

/-- The flag after a foreline reading, with hysteresis (R64). -/
def pauseAfter (s : State) (p : Nat) : Bool :=
  if s.fla.pause then decide (s.cfg.resumeLevel ≤ p) else decide (s.cfg.backingLimit < p)

/-- A foreline reading (R64). -/
def takeForelineReading (p : Nat) (s : State) : State :=
  setPause (pauseAfter s p) (s.modFla (fun a => { a with pressure := some p }))

/-- The foreline pressure becomes none and a set flag is cleared with R64's actions (R151). -/
def forelineUnknown (s : State) : State := setPause false (s.modFla (fun a => { a with pressure := none }))

end Sys2Proof.Machine
end

