-- ==== Sys2Proof/Machine/Chamber.lean ====
section
/-! DEFINITION. How steps end and chambers change state (chapter 1): reports, the end of a step, the flush, FAULTED, READY
and HELD. -/

namespace Sys2Proof.Machine

/-! ## Step records -/

/-- The gas entries of the sets a stored step uses (R26). -/
def StepRec.entries (r : StepRec) : List GasEntry := r.setA ++ r.setB

/-- The step names the line in a used set. -/
def StepRec.names (r : StepRec) (l : Line) : Bool := r.entries.any (fun g => g.line = l)

/-- The distinct lines of the used sets, ascending (R38, R86). -/
def StepRec.lines (r : StepRec) : List Line := (allIx 12).filter r.names

/-- The phase A column of the phase table; the step's commands for a kind with one set (R131). -/
def StepRec.cmdA (r : StepRec) (k : Channel) : Nat := ((r.setA.find? (fun g => g.channel = k)).map (·.cmd)).getD 0

/-- The phase B column of the phase table (R131). -/
def StepRec.cmdB (r : StepRec) (k : Channel) : Nat := ((r.setB.find? (fun g => g.channel = k)).map (·.cmd)).getD 0

/-! ## Reports (R37, R38) -/

/-- The report of a step that ends now (R37). -/
def mkReport (s : State) (e : StepCtx) (res : Result) : Report where
  id := e.record.id
  kind := e.record.kind
  result := res
  loss := false
  startTag := e.startTag
  endTag := timeTag s
  admitWait := e.admitWait.getD ((e.admitAt.map (fun t => s.now - t)).getD 0)
  purged := e.purged
  mainMs := min ((e.mainAt.map (fun t => s.now - t)).getD 0) Config.elapsedMax
  endpointMs := e.endpointMs
  overetchMs := e.overetchAt.map (fun t => s.now - t)
  cycles := if e.record.kind = .cycle then some e.cycles else none
  arcs := e.arcs
  minMax := e.minMax
  warnings := e.record.warnings
  gas := e.accums.map (fun a => (a.line, a.total))

/-- The report of a flushed step: nothing but its load and the tag of the flush; a CYCLE step's cycles are 0 (R36, R37,
R140). -/
def flushReport (s : State) (r : StepRec) : Report where
  id := r.id
  kind := r.kind
  result := .flushed
  loss := false
  startTag := timeTag s
  endTag := timeTag s
  admitWait := 0
  purged := false
  mainMs := 0
  endpointMs := none
  overetchMs := none
  cycles := if r.kind = .cycle then some 0 else none
  arcs := 0
  minMax := none
  warnings := r.warnings
  gas := []

/-! ## Ending a step (R7, R36) -/

/-- The slot is returned to HOST or filled. -/
def Csq.setSlot (q : Csq) (sl : Slot) (r : Option StepRec) : Csq :=
  match sl with
  | .a => { q with slotA := r }
  | .b => { q with slotB := r }

/-- A PURGE step that ends OK leaves a clean manifold: it named a line with a flow above 0, all its lines are of class 0,
and its duration was at least the manifold purge time (R93, R129). -/
def purgeCleans (s : State) (c : Chamber) (r : StepRec) : Bool :=
  decide (r.kind = .purge) && r.entries.any (fun g => decide (0 < g.flow)) &&
    r.lines.all (fun l => decide (classOf s l = some 0)) &&
    decide ((s.cfg.chambers.look c).purgeTimeS * 1000 ≤ r.durationMs)

/-- The actions of every end of a step: RF_EN off with both setpoints 0, the report, the slot returned, STEPEND (R7). -/
def endStep (c : Chamber) (res : Result) (s : State) : State :=
  match (s.ch c).exec with
  | none => s
  | some e =>
    let s := stopRf c s
    let s := if res = .ok ∧ purgeCleans s c e.record = true then s.modCh c (fun q => { q with residue := cleanResidue }) else s
    let s := fileReport c (mkReport s e res) s
    let s := s.modCh c (fun q => { q.setSlot e.slot none with exec := none })
    post (.stepend c e.record.id res) s

/-- Flushes the waiting step, if any (R36). -/
def flushWaiting (c : Chamber) (s : State) : State :=
  match (s.ch c).slot (s.ch c).runPtr with
  | none => s
  | some r =>
    let s := fileReport c (flushReport s r) s
    let s := s.modCh c (fun q => { q.setSlot q.runPtr none with loadPtr := q.runPtr })
    post (.stepend c r.id .flushed) s

/-! ## FAULTED (R14, R15) -/

/-- The vacuum status after a fault or an abort, by the phase of the step it ended (R3, R13, R15). -/
def vacAfterBreak (v : Vac) : Phase → Vac
  | .crossover => .roughed
  | .highVac => .roughed
  | .ventIsolate => .unknown
  | .venting => .unknown
  | _ => v

/-- A fault reaches a chamber (R15). In OFFLINE and FAULTED it does nothing (R14, R16). -/
def faultChamber (c : Chamber) (cause : Result) (s : State) : State :=
  if (s.ch c).state = .offline ∨ (s.ch c).state = .faulted then s
  else
    let v := if (s.ch c).state = .running then vacAfterBreak (s.ch c).vac (s.ch c).phase else (s.ch c).vac
    let v := if v = .highvac then .roughed else v
    let s := if (s.ch c).state = .running then flushWaiting c (endStep c cause s) else s
    let s := setThrottle c .open (clearDeviations c (zeroCurrents c (zeroTargets c (stopRf c s))))
    let s := closeValve c .vent (closeValve c .gate (closeRough c s))
    let s := releaseHoldings c s
    let s := s.modCh c (fun q =>
      { q with state := .faulted, phase := .none, vac := v, cause := some cause, exec := none, hold := none })
    leaveForeline c (postChstate c (post (.fault c cause) s))

/-! ## READY and HELD (R9, R11) -/

/-- Enters READY from RUNNING or HELD with a vacuum status, stopping process activity (R11). -/
def enterReady (c : Chamber) (s : State) : State :=
  let s := setThrottle c .open (stopRf c (clearDeviations c (zeroTargets c s)))
  let s := releaseHoldings c (closeRough c s)
  let s := s.modCh c (fun q => { q with state := .ready, phase := .none, exec := none, hold := none })
  leaveForeline c (postChstate c s)

/-- Enters HELD, keeping flows, holdings and throttle; the hold timer is loaded (R9). -/
def enterHeld (c : Chamber) (s : State) : State :=
  postChstate c (s.modCh c (fun q =>
    { q with state := .held, phase := .none, hold := some (s.now + (s.cfg.chambers.look c).holdLimitS * 1000) }))

/-! ## ABRT (R12, R13) -/

/-- The valve actions of ABRT in the current phase; rough valves are commanded closed at the entry into READY (R13). -/
def abortValves (c : Chamber) (s : State) : State :=
  match (s.ch c).phase with
  | .crossover => closeValve c .gate s
  | .ventIsolate => closeValve c .gate s
  | .venting => closeValve c .vent s
  | _ => s

/-- Aborts the executing step of a RUNNING chamber (R12, R13). -/
def abortStep (c : Chamber) (s : State) : State :=
  let v := vacAfterBreak (s.ch c).vac (s.ch c).phase
  let s := abortValves c s
  let s := flushWaiting c (endStep c .aborted s)
  enterReady c (s.modCh c (fun q => { q with vac := v }))

end Sys2Proof.Machine
end

