-- ==== Sys2Proof/Machine/Gas.lean ====
section
/-! DEFINITION. Gas admission (chapter 5) and the phases it leads to (chapter 7): flow targets with the EXH_OK test,
MANIFOLD_PURGE, SETTLE and PURGING entry, the pending request, the admission test, the admission queue service, the loss
of a line. -/

namespace Sys2Proof.Machine

/-! ## Targets with the level test (R14, R102) -/

/-- Some channel's target is about to rise above 0, so its stick valve would open. -/
def wouldOpen (c : Chamber) (want : Channel → Nat) (s : State) : Bool :=
  (allIx 8).any (fun k => decide ((s.chan c k).target = 0) && decide (0 < want k))

/-- Sets the flow targets of a RUNNING or HELD chamber and goes on; where a stick valve would open with EXH_OK not qualified
true, the chamber is faulted with EXHAUST instead (R14, R102). -/
def withTargets (c : Chamber) (want : Channel → Nat) (andThen : State → State) (s : State) : State :=
  if wouldOpen c want s && !exhOk s then faultChamber c .exhaust s
  else andThen (setTargets c want s)

/-! ## MANIFOLD_PURGE, SETTLE, PURGING (R113, R116, R129) -/

/-- Opens an accumulator for a line that has none, keeping ascending line order (R38, R113). -/
def openAccum (l : Line) (xs : List Accum) : List Accum :=
  if xs.any (fun a => a.line = l) then xs
  else xs.filter (fun a => a.line < l) ++ [{ line := l, total := 0, rem := 0 }] ++ xs.filter (fun a => l < a.line)

/-- The targets of MANIFOLD_PURGE: the purge channel's command alone (R88, R113). -/
def purgeTargets (p : Option GasEntry) (k : Channel) : Nat :=
  match p with
  | none => 0
  | some g => if g.channel = k then g.cmd else 0

/-- Enters MANIFOLD_PURGE (R113). -/
def enterPurge (c : Chamber) (r : StepRec) (s : State) : State :=
  let s := s.modExec c (fun e =>
    { e with
      purged := true
      purgeTimer := some (s.now + (s.cfg.chambers.look c).purgeTimeS * 1000)
      accums := match r.purge with
        | none => e.accums
        | some g => openAccum g.line e.accums })
  let s := enterPhase c .manifoldPurge s
  withTargets c (purgeTargets r.purge) (setThrottle c .open) s

/-- Enters SETTLE, or PURGING for a PURGE step, with the step's targets (R88, R114, R116, R129). -/
def enterWork (c : Chamber) (r : StepRec) (s : State) : State :=
  if r.kind = .purge then
    let s := s.modExec c (fun e => { e with duration := some (s.now + r.durationMs), purgeTimer := none })
    let s := enterPhase c .purging (startMain c s)
    withTargets c r.cmdA (setThrottle c (.pressure r.targetA)) s
  else
    let s := s.modExec c (fun e =>
      { e with
        settleLimit := some (s.now + (s.cfg.chambers.look c).settleLimitS * 1000)
        settleTimer := none
        purgeTimer := none })
    let s := enterPhase c .settle s
    withTargets c r.cmdA (setThrottle c (.pressure r.targetA)) s

/-! ## The pending request (R86) -/

/-- The step's own wanted flow on a line: the larger of its effective flows there (R86). -/
def StepRec.wanted (r : StepRec) (l : Line) : Option Nat :=
  if r.names l then some ((r.entries.filter (fun g => g.line = l)).foldl (fun n g => max n g.eff) 0) else none

/-- A manifold purge is inserted: the step names a line, and some class of the residue and some class of a named line are
marked incompatible (R86). -/
def purgeNeeded (s : State) (c : Chamber) (r : StepRec) : Bool :=
  (allIx 8).any (fun i => (s.ch c).residue.look i &&
    r.lines.any (fun l => match classOf s l with
      | none => false
      | some j => !compatible s i j))

/-- The wanted flow of a line, with the purge entry's flow when a purge is inserted (R86). -/
def wantedWith (r : StepRec) (purge : Bool) (l : Line) : Option Nat :=
  match r.purge with
  | none => r.wanted l
  | some g =>
    if purge && decide (g.line = l) then some (max g.eff ((r.wanted l).getD 0)) else r.wanted l

/-- The pending request of a step, ascending by line (R86). -/
def buildRequest (s : State) (c : Chamber) (r : StepRec) : Request :=
  let purge := purgeNeeded s c r
  { wants := (allIx 12).filterMap (fun l => (wantedWith r purge l).map (fun n => { line := l, flow := n }))
    purge := purge }

/-! ## Admission (R88) -/

/-- The replacement of the holdings lowers or removes an entry (R88). -/
def lowers (old new : List Holding) : Bool :=
  old.any (fun h => match flowOn new h.line with
    | none => true
    | some n => decide (n < h.flow))

/-- Admits a chamber whose request passes (R88). -/
def admitChamber (c : Chamber) (rq : Request) (s : State) : State :=
  match (s.ch c).exec with
  | none => s
  | some e =>
    let low := lowers (s.ch c).holdings rq.wants
    let s := s.modExec c (fun e => { e with admitWait := some ((e.admitAt.map (fun t => s.now - t)).getD 0) })
    let s := leaveQueue c s
    let s := s.modCh c (fun q => { q with holdings := rq.wants })
    let s := if low then oweService s else s
    if rq.purge then enterPurge c e.record s else enterWork c e.record s

/-- ADMIT entry: the request is built and acted on at once (R86, R87). -/
def enterAdmit (c : Chamber) (r : StepRec) (s : State) : State :=
  let s := enterPhase c .admission (s.modExec c (fun e => { e with admitAt := some s.now }))
  let rq := buildRequest s c r
  if rq.wants.any (fun w => decide ((s.ln w.line).state = .lockedOut)) then
    faultChamber c .lineLost (s.modExec c (fun e => { e with admitWait := some 0 }))
  else if admissible s c rq && !emoAsserted s then admitChamber c rq s
  else
    (s.modCh c (fun q =>
      { q with request := some rq, admitTimer := some (s.now + (s.cfg.chambers.look c).admitLimitS * 1000) })).modGat
      (fun g => { g with queue := g.queue ++ [c] })

/-! ## The admission queue service (R90) -/

/-- One chamber of a scan is tested and admitted if its request passes; the Bool says so. -/
def tryAdmit (c : Chamber) (s : State) : State × Bool :=
  if c ∈ s.gat.queue then
    match (s.ch c).request with
    | none => (s, false)
    | some rq => if admissible s c rq then (admitChamber c rq s, true) else (s, false)
  else (s, false)

/-- One pass over the queue as it stood, oldest first. -/
def servicePass : List Chamber → State → State × Bool
  | [], s => (s, false)
  | c :: rest, s =>
    let one := tryAdmit c s
    let more := servicePass rest one.1
    (more.1, one.2 || more.2)

/-- Passes are repeated until one admits none; a run admits at most six chambers (R90). -/
def serviceRuns : Nat → State → State
  | 0, s => s
  | n + 1, s =>
    let p := servicePass s.gat.queue s
    if p.2 then serviceRuns n p.1 else p.1

/-- The service run an event owes, if any; not run while EMO is asserted (R85, R90). Releases inside a run are served by
its repetition. -/
def runService (s : State) : State :=
  if s.gat.serviceDue then
    let s := if emoAsserted s then s else serviceRuns 7 s
    s.modGat (fun g => { g with serviceDue := false })
  else s

/-! ## Losing a line (R83) -/

/-- Faults with LINE_LOST each chamber that holds the line, ascending. -/
def faultHolders (l : Line) (s : State) : State :=
  (allIx 6).foldl (fun s c => if (flowOn (s.ch c).holdings l).isSome then faultChamber c .lineLost s else s) s

/-- Fails with LINE_LOST each chamber still queued whose request names the line, ascending. -/
def faultWaiters (l : Line) (s : State) : State :=
  (allIx 6).foldl (fun s c =>
    if c ∈ s.gat.queue ∧ ((s.ch c).request.any (fun rq => (flowOn rq.wants l).isSome)) = true then
      faultChamber c .lineLost s
    else s) s

/-- A line enters LOCKED_OUT with the effects of R83; the service run of step 4 is owed. -/
def lockLine (l : Line) (cause : LineCause) (s : State) : State :=
  oweService (faultWaiters l (faultHolders l (setLineState l .lockedOut cause s)))

/-- Sends the FLA a message about a line (R65). -/
def sendFla (m : ListMsg) (l : Line) (s : State) : State := s.modGat (fun g => { g with toFla := g.toFla ++ [(m, l)] })

/-- A line in service is locked out: with a removal sent if it is listed for pump-out (R79, R82). -/
def lockOut (l : Line) (cause : LineCause) (s : State) : State :=
  let listed := decide ((s.ln l).state = .pumpoutPending) || decide ((s.ln l).state = .pumpingOut)
  let s := lockLine l cause s
  if listed then sendFla .removal l s else s

/-! ## Pump-out messages (R81) -/

/-- The GAT takes a message of the FLA; one that finds the line in another state is ignored (R81). -/
def takePumpMsg (m : PumpMsg) (l : Line) (s : State) : State :=
  match m, (s.ln l).state with
  | .begun, .pumpoutPending => setLineState l .pumpingOut .begun s
  | .stopped, .pumpingOut => setLineState l .pumpoutPending .stopped s
  | .complete, .pumpingOut => oweService (setLineState l .ready .complete s)
  | _, _ => s

/-- The first message about a line that waits in a channel. -/
def firstMsg {α : Type} (l : Line) (xs : List (α × Line)) : Option α := (xs.find? (fun m => m.2 = l)).map (·.1)

/-- A channel without its first message about a line. -/
def dropFirst {α : Type} (l : Line) : List (α × Line) → List (α × Line)
  | [] => []
  | m :: rest => if m.2 = l then rest else m :: dropFirst l rest

/-- The GAT takes every waiting message about a line, in the order sent. -/
def takeAllPumpMsgs (l : Line) (s : State) : State :=
  let msgs := s.fla.toGat.filter (fun m => m.2 = l)
  let s := s.modFla (fun a => { a with toGat := a.toGat.filter (fun m => m.2 ≠ l) })
  msgs.foldl (fun s m => takePumpMsg m.1 l s) s

end Sys2Proof.Machine
end

