-- ==== Sys2Proof/Machine/Process.lean ====
section
/-! DEFINITION. How steps start, run and hand over: the start of a step (R6), PUMPDOWN and VENT (chapter 3), the phases of
process steps (chapter 7) and of CYCLE (chapter 8), the chamber pressure (R18, R19). -/

namespace Sys2Proof.Machine

/-! ## CROSSOVER and HIGH_VAC (R51, R52) -/

/-- Enters HIGH_VAC: the base timer is loaded and the main phase starts (R52). -/
def enterHighVac (c : Chamber) (s : State) : State :=
  let s := s.modExec c (fun e => { e with baseTimer := some (s.now + (s.cfg.chambers.look c).baseTimeoutS * 1000) })
  enterPhase c .highVac (startMain c s)

/-- CROSSOVER goes on as far as the valves let it: GATE is opened, with the level tests of R14, once the rough valves and
VENT are closed; HIGH_VAC follows the opening travel (R51). DESIGN CHOICE: FORE_OK is tested before TURBO_OK, so a chamber
with neither records FORELINE_LOST (notes/assumptions/38.md). DESIGN CHOICE: a GATE that is already commanded open is not about
to be opened, so no level test is made for it (notes/assumptions/39.md). -/
def crossoverOn (c : Chamber) (s : State) : State :=
  if !(s.ch c).inPhase .crossover then s
  else if (s.ch c).gate.cmd then
    if (s.ch c).gate.pos = .opened then enterHighVac c s else s
  else if (s.ch c).mayOpenGate then
    if !foreOk s then faultChamber c .forelineLost s
    else if !turboOk s c then faultChamber c .turbo s
    else openGate c s
  else s

/-- Enters CROSSOVER (R51). -/
def enterCrossover (c : Chamber) (s : State) : State :=
  let s := closeRough c (stopRoughTimer c s)
  crossoverOn c (leaveForeline c (enterPhase c .crossover s))

/-! ## PUMPDOWN start and roughing entries (R42, R43) -/

/-- The chamber pressure is at or below the crossover pressure; none is above it (R42). -/
def atCrossover (s : State) (c : Chamber) : Bool :=
  match (s.ch c).pressure with
  | none => false
  | some p => decide (p ≤ (s.cfg.chambers.look c).crossover)

/-- A PUMPDOWN step starts (R42). -/
def startPumpdown (c : Chamber) (s : State) : State :=
  let s := setThrottle c .open (releaseHoldings c (zeroTargets c s))
  let s := s.modCh c (fun q => { q with vac := if q.vac = .highvac then .roughed else q.vac })
  if atCrossover s c then
    if (s.ch c).gate.cmd ∧ (s.ch c).gate.pos = .opened then enterHighVac c s else enterCrossover c s
  else requestForeline c (if (s.ch c).gate.cmd then closeValve c .gate s else s)

/-! ## VENT (R55, R56) -/

/-- Enters VENTING: the vacuum status becomes UNKNOWN and the vent timer is loaded (R56). -/
def enterVenting (c : Chamber) (s : State) : State :=
  let s := s.modExec c (fun e => { e with ventTimer := some (s.now + (s.cfg.chambers.look c).ventTimeoutS * 1000) })
  enterPhase c .venting (startMain c (s.modCh c (fun q => { q with vac := .unknown })))

/-- VENT_ISOLATE goes on as far as the valves let it: VENT is opened once GATE and both rough valves are closed (R55). -/
def ventIsolateOn (c : Chamber) (s : State) : State :=
  if (s.ch c).inPhase .ventIsolate && (s.ch c).mayOpenVent then enterVenting c (openVent c s) else s

/-- A VENT step starts (R55). -/
def startVent (c : Chamber) (s : State) : State :=
  let s := setThrottle c .open (releaseHoldings c (zeroTargets c s))
  let s := enterPhase c .ventIsolate s
  ventIsolateOn c (if (s.ch c).gate.cmd then closeValve c .gate s else s)

/-! ## The start of a step (R6) -/

/-- The executing-step context at the start of a step: every timer, counter and accumulator 0 (R6, R38). -/
def StepCtx.init (r : StepRec) (sl : Slot) (tag : Nat) : StepCtx where
  record := r
  slot := sl
  startTag := tag
  admitAt := none
  admitWait := none
  purged := false
  mainAt := none
  etchAt := none
  endpointMs := none
  overetchAt := none
  maskDone := false
  firstCycle := true
  cycles := 0
  arcs := 0
  minMax := none
  accums := r.lines.map (fun l => { line := l, total := 0, rem := 0 })
  roughHeld := 0
  roughSince := none
  paused := none
  baseTimer := none
  ventTimer := none
  purgeTimer := none
  settleLimit := none
  settleTimer := none
  duration := none
  excursion := none
  strikeTimer := none
  maskTimer := none
  overetchTimer := none
  cycleTimer := none

/-- The step in the slot at the run pointer starts; an empty slot starts nothing (R6). -/
def startStep (c : Chamber) (s : State) : State :=
  match (s.ch c).slot (s.ch c).runPtr with
  | none => s
  | some r =>
    let s := s.modCh c (fun q =>
      { q with
        state := .running
        phase := .none
        exec := some (StepCtx.init r q.runPtr (timeTag s))
        runPtr := q.runPtr.other
        hold := none })
    let s := post (.stepbegin c r.id r.kind) s
    if !lidClosed s c then faultChamber c .lid s
    else match r.kind with
      | .pumpdown => startPumpdown c s
      | .vent => startVent c s
      | _ => if (s.ch c).vac = .highvac then enterAdmit c r s else faultChamber c .notReady s

/-- The handover after an OK end: the waiting step, HELD or READY (R8). -/
def handover (c : Chamber) (k : Kind) (s : State) : State :=
  if ((s.ch c).slot (s.ch c).runPtr).isSome then startStep c s
  else if k.isProcess ∧ 0 < (s.cfg.chambers.look c).holdLimitS then enterHeld c s
  else enterReady c s

/-- The executing step ends OK (R7, R8). -/
def endOk (c : Chamber) (s : State) : State :=
  match (s.ch c).exec with
  | none => s
  | some e => handover c e.record.kind (endStep c .ok s)

/-! ## STEADY, STRIKE, ETCH, OVERETCH (R119 to R127) -/

/-- Enters STEADY (R119). -/
def enterSteady (c : Chamber) (r : StepRec) (s : State) : State :=
  enterPhase c .steady (startMain c (s.modExec c (fun e => { e with duration := some (s.now + r.durationMs) })))

/-- The part of an in-flight SOURCE transaction of the chamber: it was built before this STRIKE entry (R122). -/
def markBeforeStrike (c : Chamber) (s : State) : State :=
  s.modIlc (fun i => { i with inFlight := i.inFlight.map (fun t =>
    if ownerOf (s.cfg.poll.look t.entry).owner = some (.chamber c) then { t with beforeStrike := true } else t) })

/-- RF_EN goes on with the phase A setpoints (R121). -/
def startRf (c : Chamber) (r : StepRec) (s : State) : State :=
  setBias c r.biasA (setSource c r.sourceA (s.modCh c (fun q => { q with rfEn := true })))

/-- Enters STRIKE: RF_EN goes on only with EMO released and LID_CLOSED and EXH_OK true (R21, R121). -/
def enterStrike (c : Chamber) (r : StepRec) (s : State) : State :=
  let s := enterPhase c .strike (markBeforeStrike c s)
  if emoAsserted s then faultChamber c .emo s
  else if !lidClosed s c then faultChamber c .lid s
  else if !exhOk s then faultChamber c .exhaust s
  else (startRf c r s).modExec c (fun e => { e with strikeTimer := some (s.now + (s.cfg.chambers.look c).strikeMs) })

/-- The chamber has settled (R117). -/
def settled (c : Chamber) (s : State) : State :=
  match (s.ch c).exec with
  | none => s
  | some e =>
    let s := s.modExec c (fun e => { e with settleLimit := none, settleTimer := none })
    if e.record.kind = .stabilize then enterSteady c e.record s else enterStrike c e.record s

/-- The overetch duration (R127). -/
def overetchMs (e pct : Nat) : Nat := min ((e * pct + 99) / 100) Config.overetchMaxMs

/-- Enters OVERETCH (R127). -/
def enterOveretch (c : Chamber) (o : Nat) (s : State) : State :=
  enterPhase c .overetch (s.modExec c (fun e => { e with overetchTimer := some (s.now + o), overetchAt := some s.now }))

/-- The endpoint is reached (R125). -/
def endpointReached (c : Chamber) (s : State) : State :=
  match (s.ch c).exec with
  | none => s
  | some e =>
    let t := (e.etchAt.map (fun t => s.now - t)).getD 0
    let s := s.modExec c (fun e => { e with endpointMs := some t, duration := none })
    let o := overetchMs t e.record.overetchPct
    if 0 < o then enterOveretch c o s else endOk c s

/-- The mask timer expires (R125). -/
def maskExpired (c : Chamber) (s : State) : State :=
  let s := s.modExec c (fun e => { e with maskTimer := none, maskDone := true })
  if endpointAsserted s c then endpointReached c s else s

/-- Enters ETCH (R124); a mask of 0 expires at entry (R125). -/
def enterEtch (c : Chamber) (r : StepRec) (s : State) : State :=
  let s := s.modExec c (fun e => { e with duration := some (s.now + r.durationMs), etchAt := some s.now })
  let s := enterPhase c .etch (startMain c s)
  match r.endMode with
  | .time => s
  | .endpoint =>
    if r.maskMs = 0 then maskExpired c s
    else s.modExec c (fun e => { e with maskTimer := some (s.now + r.maskMs) })

/-! ## CYCLING (R133, R134) -/

/-- Enters the first CYCLING_A (R133). -/
def enterCycling (c : Chamber) (r : StepRec) (s : State) : State :=
  let s := s.modExec c (fun e => { e with cycleTimer := some (s.now + r.phaseAMs + r.firstExtMs) })
  enterPhase c .cyclingA (startMain c s)

/-- The strike is confirmed (R122). -/
def strikeConfirmed (c : Chamber) (s : State) : State :=
  match (s.ch c).exec with
  | none => s
  | some e =>
    let s := s.modExec c (fun e => { e with strikeTimer := none })
    if e.record.kind = .cycle then enterCycling c e.record s else enterEtch c e.record s

/-- Switches a CYCLE step to a cycling phase: timer, flows, throttle, generators, excursion, no CHSTATE (R134). -/
def switchCycle (c : Chamber) (r : StepRec) (toB : Bool) (s : State) : State :=
  let s := s.modCh c (fun q =>
    { q with
      phase := if toB then .cyclingB else .cyclingA
      exec := q.exec.map (fun e =>
        { e with cycleTimer := some (s.now + (if toB then r.phaseBMs else r.phaseAMs)), excursion := none }) })
  withTargets c (if toB then r.cmdB else r.cmdA) (fun s =>
    let s := setThrottle c (.pressure (if toB then r.targetB else r.targetA)) s
    let s := setSource c (if toB then r.sourceB else r.sourceA) s
    setBias c (if toB then r.biasB else r.biasA) s) s

/-- The cycle phase timer expires (R134, R136). -/
def cyclePhaseEnd (c : Chamber) (s : State) : State :=
  match (s.ch c).exec with
  | none => s
  | some e =>
    if (s.ch c).phase = .cyclingB then
      let s := s.modExec c (fun e => { e with cycles := e.cycles + 1 })
      if e.cycles + 1 = e.record.cycleCount then
        endOk c (s.modExec c (fun e => { e with cycleTimer := none }))
      else switchCycle c e.record false s
    else switchCycle c e.record true (s.modExec c (fun e => { e with firstCycle := false }))

/-! ## The chamber pressure (R18, R19) -/

/-- The chamber's GAUGE_PROCESS entry is in state OK. -/
def processOk (s : State) (c : Chamber) : Bool :=
  match findEntry s (.chamber c) .gaugeProcess with
  | none => false
  | some e => decide ((s.pollDyn e).state = .ok)

/-- The chamber pressure is chosen (R18). -/
def choosePressure (c : Chamber) (s : State) : State :=
  s.modCh c (fun q =>
    let wide := match q.wideReading with
      | some w => some w
      | none => q.pressure
    { q with pressure :=
        match q.processReading with
        | some p => if processOk s c ∧ p * 10 ≤ (s.cfg.chambers.look c).processFullScale * 9 then some p else wide
        | none => wide })

/-- The step's minimum and maximum take an evaluated value of the main phase (R19). -/
def trackMinMax (c : Chamber) (s : State) : State :=
  match (s.ch c).pressure with
  | none => s
  | some p =>
    if (s.ch c).running && (s.ch c).phase.isMain then
      s.modExec c (fun e => { e with minMax := some (match e.minMax with
        | none => (p, p)
        | some m => (min m.1 p, max m.2 p)) })
    else s

/-- The settle test (R117). -/
def settleTest (c : Chamber) (e : StepCtx) (s : State) : State :=
  if inBand (s.ch c).pressure e.record.targetA e.record.tolerance then
    if e.settleTimer.isSome then s
    else if e.record.settleMs = 0 then settled c s
    else s.modExec c (fun e => { e with settleTimer := some (s.now + e.record.settleMs) })
  else s.modExec c (fun e => { e with settleTimer := none })

/-- The excursion test of a watched phase (R120). -/
def excursionTest (c : Chamber) (e : StepCtx) (target : Nat) (s : State) : State :=
  if inBand (s.ch c).pressure target e.record.tolerance then s.modExec c (fun e => { e with excursion := none })
  else if e.excursion.isSome then s
  else if (s.cfg.chambers.look c).excursionMs = 0 then s
  else s.modExec c (fun e => { e with excursion := some (s.now + (s.cfg.chambers.look c).excursionMs) })

/-- The pressure conditions of the executing step by its phase, at one evaluation (R19). -/
def pressureConditions (c : Chamber) (e : StepCtx) (s : State) : State :=
  let p := s.cfg.chambers.look c
  match (s.ch c).phase with
  | .waitForeline => if atCrossover s c then enterCrossover c s else s
  | .roughSoft =>
    if atCrossover s c then enterCrossover c s
    else match (s.ch c).pressure with
      | none => s
      | some v => if v ≤ p.softRough then enterSub c .fast s else s
  | .roughFast => if atCrossover s c then enterCrossover c s else s
  | .roughPaused => if atCrossover s c then enterCrossover c s else s
  | .highVac =>
    match (s.ch c).pressure with
    | none => s
    | some v =>
      if v ≤ e.record.targetA then
        endOk c ((s.modExec c (fun e => { e with baseTimer := none })).modCh c (fun q => { q with vac := .highvac }))
      else s
  | .venting =>
    match (s.ch c).pressure with
    | none => s
    | some v =>
      if p.atmosphere ≤ v then
        endOk c ((closeValve c .vent (s.modExec c (fun e => { e with ventTimer := none }))).modCh c
          (fun q => { q with vac := .atmosphere }))
      else s
  | .settle => settleTest c e s
  | .steady => excursionTest c e e.record.targetA s
  | .etch => excursionTest c e e.record.targetA s
  | .overetch => excursionTest c e e.record.targetA s
  | .cyclingA => excursionTest c e e.record.targetA s
  | .cyclingB => excursionTest c e e.record.targetB s
  | _ => s

/-- A gauge reading has been stored: the pressure is chosen and evaluated (R18, R19). -/
def evaluatePressure (c : Chamber) (s : State) : State :=
  let s := trackMinMax c (choosePressure c s)
  match (s.ch c).exec with
  | none => s
  | some e => if (s.ch c).running then pressureConditions c e s else s

/-! ## Arcs (R128) -/

/-- The CSQ takes a delivered edge (R128). -/
def takeArc (c : Chamber) (s : State) : State :=
  match (s.ch c).exec with
  | none => s
  | some e =>
    if (s.ch c).running && (s.ch c).phase.countsArcs then
      let n := min (e.arcs + 1) Config.arcCountMax
      let s := s.modExec c (fun e => { e with arcs := n })
      if 0 < e.record.arcLimit ∧ e.record.arcLimit < n then faultChamber c .arcLimit s else s
    else s

/-! ## Valve travels (R20) -/

/-- The CSQ's and the FLA's waiting phases go on after a travel expiry of a chamber valve. -/
def afterTravel (c : Chamber) (s : State) : State :=
  let s := if (s.ch c).roughOpen then s else stopRoughTimer c s
  let s := if (s.ch c).inPhase .roughSoft || (s.ch c).inPhase .roughFast then openRough c s else s
  let s := crossoverOn c (ventIsolateOn c s)
  handoverCheck s

end Sys2Proof.Machine
end

