-- ==== Sys2Proof/Machine/Flow.lean ====
section
/-! DEFINITION. Flow arithmetic (chapter 6): commands and effective flows, ramping, readings, consumption, deviation. -/

namespace Sys2Proof.Machine

/-! ## Commands and effective flow (R98, R99) -/

/-- The raw command: the quotient rounded half up (R98). -/
def rawCommand (flow gcf fs : Nat) : Nat := (flow * 1000000 + (gcf * fs) / 2) / (gcf * fs)

/-- The command settled from the raw value, before the flow-range limit, with FLOW_CLAMPED and FLOW_RAISED (R98). -/
def settledCommand (flow gcf fs floor : Nat) : Nat × Bool × Bool :=
  let raw := rawCommand flow gcf fs
  if flow = 0 then (0, false, false)
  else if Config.commandMax < raw then (Config.commandMax, true, false)
  else if raw < floor then (floor, false, true)
  else (raw, false, false)

/-- The stored command with the flow-range limit (R98). -/
def storedCommand (flow gcf fs floor : Nat) : Nat × Bool × Bool :=
  let c := settledCommand flow gcf fs floor
  if Config.flowMax * 1000000 < c.1 * gcf * fs then (Config.flowMax * 1000000 / (gcf * fs), true, c.2.2) else c

/-- The effective flow of a stored command, rounded up (R99). -/
def effectiveFlow (cmd gcf fs : Nat) : Nat := (cmd * gcf * fs + 999999) / 1000000

/-! ## Ramping (R101) -/

/-- One ramp update: the step, then the snap at the floor (R101). -/
def rampStep (cur target limit floor : Nat) : Nat :=
  let n :=
    if cur < target then min target (cur + limit)
    else if target < cur then max target (cur - limit)
    else cur
  if 0 < n ∧ n < floor then
    if cur < target then floor
    else if target < cur then 0
    else n
  else n

/-- The FCU's ramp update of a channel, made when a transaction is built for it (R101). -/
def rampUpdate (c : Chamber) (k : Channel) (s : State) : State :=
  let m := (s.cfg.maps.look c).look k
  s.modChan c k (fun x =>
    let n := rampStep x.current x.target m.ramp m.floor
    { x with current := n, lastSent := n })

/-! ## Readings (R103, R104) -/

/-- The measured value of a reading (R103). -/
def measured (r : Nat) : Nat :=
  if r ≤ Config.readingDeadband then 0 else min r Config.readingMax

/-- The interval of a reading: the difference of the tags modulo 2^32, capped; 0 without a last reading (R104). -/
def interval (s : State) (last : Option Nat) : Nat :=
  match last with
  | none => 0
  | some t => min ((timeTag s + Config.tagModulus - t) % Config.tagModulus) Config.intervalCapMs

/-! ## Consumption (R105, R106) -/

/-- A total that would pass its maximum stands at it (R105). -/
def addTotal (total whole : Nat) : Nat := min (total + whole) Config.totalMax

/-- Adds an increment to a line's total and remainder (R105). -/
def LineDyn.integrate (n : Nat) (x : LineDyn) : LineDyn :=
  { x with
    total := addTotal x.total ((x.rem + n) / Config.integrationDivisor)
    rem := (x.rem + n) % Config.integrationDivisor }

/-- Adds an increment to an accumulator (R106). -/
def Accum.integrate (n : Nat) (a : Accum) : Accum :=
  { a with
    total := addTotal a.total ((a.rem + n) / Config.integrationDivisor)
    rem := (a.rem + n) % Config.integrationDivisor }

/-- Integrates a reading on the channel's line: the line total, and the executing step's accumulator for the line. A
reading of an unbound channel, or on an UNCONFIGURED line, is integrated nowhere (R103, R105, R106). -/
def integrateReading (c : Chamber) (k : Channel) (m dt : Nat) (s : State) : State :=
  let e := (s.cfg.maps.look c).look k
  match e.line with
  | none => s
  | some l =>
    match s.cfg.lines.look l with
    | none => s
    | some r =>
      let n := m * e.fs * r.gcf * dt
      let s := s.modLine l (LineDyn.integrate n)
      s.modExec c (fun x => { x with accums := x.accums.map (fun a => if a.line = l then a.integrate n else a) })

/-! ## Deviation (R107) -/

/-- The deviation check of a reading (R107). -/
def deviationCheck (s : State) (c : Chamber) (m : Nat) (x : ChanCtx) : ChanCtx :=
  if x.target = 0 then x
  else if (s.cfg.chambers.look c).deviationTol < (m - x.lastSent) + (x.lastSent - m) then
    { x with deviation := some (x.deviation.getD s.now) }
  else { x with deviation := none }

/-- The FCU takes an accepted flow reading: interval, deviation check, integration (R103). -/
def takeFlowReading (c : Chamber) (k : Channel) (r : Nat) (s : State) : State :=
  let m := measured r
  let dt := interval s (s.chan c k).lastTime
  let s := s.modChan c k (fun x =>
    deviationCheck s c m { x with reading := some m, lastTime := some (timeTag s) })
  integrateReading c k m dt s

/-- A deviation timer reaches the flow fault time (R108). -/
def deviationExpired (c : Chamber) (k : Channel) (s : State) : State :=
  let s := s.modChan c k (fun x => { x with deviation := none })
  if (s.ch c).state = .running ∨ (s.ch c).state = .held then faultChamber c .flowDeviation s else s

end Sys2Proof.Machine
end

