-- ==== Sys2Proof/Machine/Bytes.lean ====
section
/-! DEFINITION. Bytes of the links (R173, R183): big-endian fields, the CRC-16, the codes of the enumerations. -/

namespace Sys2Proof.Machine

/-! ## Fields: multi-byte fields are big-endian (R183) -/

def u8 (n : Nat) : List Byte := [BitVec.ofNat 8 n]
def u16 (n : Nat) : List Byte := [BitVec.ofNat 8 (n / 256), BitVec.ofNat 8 n]
def u32 (n : Nat) : List Byte := u16 (n / 65536) ++ u16 n
def u48 (n : Nat) : List Byte := u16 (n / 4294967296) ++ u32 n

/-- A flag, or one bit of a flag group. -/
def flag (b : Bool) : Nat := if b then 1 else 0

/-- A flag group: each flag one bit, in order from the least significant (R183). -/
def flags : List Bool → Nat
  | [] => 0
  | b :: rest => flag b + 2 * flags rest

/-- The number a big-endian run of bytes spells. -/
def bytesNat (bs : List Byte) : Nat := bs.foldl (fun n b => n * 256 + b.toNat) 0

/-- The field of a body at an offset, size bytes long. -/
def field (body : List Byte) (at' size : Nat) : Nat := bytesNat ((body.drop at').take size)

/-! ## CRC-16: polynomial x^16 + x^12 + x^5 + 1, initial 0xFFFF, no reflection (R173) -/

/-- One bit of the CRC. -/
def crcBit (c : BitVec 16) : BitVec 16 := if c.msb then (c <<< 1) ^^^ 0x1021#16 else c <<< 1

/-- One byte of the CRC. -/
def crcByte (c : BitVec 16) (b : Byte) : BitVec 16 :=
  let x := c ^^^ ((b.setWidth 16) <<< 8)
  crcBit (crcBit (crcBit (crcBit (crcBit (crcBit (crcBit (crcBit x)))))))

/-- The CRC of a run of bytes. -/
def crc16 (bs : List Byte) : BitVec 16 := bs.foldl crcByte 0xFFFF#16

/-- The CRC as sent, high byte first. -/
def crcBytes (bs : List Byte) : List Byte := u16 (crc16 bs).toNat

/-! ## Enumerations (R183) -/

def ChState.code : ChState → Nat
  | .offline => 0
  | .ready => 1
  | .running => 2
  | .held => 3
  | .faulted => 4

def Phase.code : Phase → Nat
  | .none => 0
  | .waitForeline => 1
  | .roughSoft => 2
  | .roughFast => 3
  | .roughPaused => 4
  | .roughSuspended => 5
  | .crossover => 6
  | .highVac => 7
  | .admission => 8
  | .manifoldPurge => 9
  | .settle => 10
  | .steady => 11
  | .strike => 12
  | .etch => 13
  | .overetch => 14
  | .cyclingA => 15
  | .cyclingB => 16
  | .purging => 17
  | .ventIsolate => 18
  | .venting => 19

/-- DESIGN CHOICE: R3's table lists events, not the four values, so they are numbered in the order of the sentence before it:
UNKNOWN, ATMOSPHERE, ROUGHED, HIGHVAC (notes/assumptions/42.md). -/
def Vac.code : Vac → Nat
  | .unknown => 0
  | .atmosphere => 1
  | .roughed => 2
  | .highvac => 3

def Result.code : Result → Nat
  | .ok => 0
  | .aborted => 1
  | .flushed => 2
  | .notReady => 3
  | .roughTimeout => 4
  | .baseTimeout => 5
  | .ventTimeout => 6
  | .admitTimeout => 7
  | .lineLost => 8
  | .settleTimeout => 9
  | .strikeFail => 10
  | .arcLimit => 11
  | .noEndpoint => 12
  | .pressureExcursion => 13
  | .flowDeviation => 14
  | .emo => 15
  | .forelineLost => 16
  | .turbo => 17
  | .lid => 18
  | .exhaust => 19
  | .instrument => 20

/-- A recorded cause: 0 for none (R183). -/
def causeCode : Option Result → Nat
  | none => 0
  | some r => r.code

def Kind.code : Kind → Nat
  | .pumpdown => 1
  | .stabilize => 2
  | .plasma => 3
  | .cycle => 4
  | .purge => 5
  | .vent => 6

/-- The kind a code names (R183). -/
def kindOf (n : Nat) : Option Kind :=
  match n with
  | 1 => some .pumpdown
  | 2 => some .stabilize
  | 3 => some .plasma
  | 4 => some .cycle
  | 5 => some .purge
  | 6 => some .vent
  | _ => none

/-- DESIGN CHOICE: no table lists the slots, so they are numbered in the order in which R27 and R35 name them: A 0, B 1
(notes/assumptions/43.md). -/
def Slot.code : Slot → Nat
  | .a => 0
  | .b => 1

def LineState.code : LineState → Nat
  | .unconfigured => 0
  | .ready => 1
  | .pumpoutPending => 2
  | .pumpingOut => 3
  | .lockedOut => 4

def LineCause.code : LineCause → Nat
  | .config => 0
  | .pumpout => 1
  | .begun => 2
  | .stopped => 3
  | .complete => 4
  | .lockout => 5
  | .cabinet => 6
  | .unlock => 7

def FlState.code : FlState → Nat
  | .idle => 0
  | .heldChamber => 1
  | .heldPumpout => 2
  | .handover => 3

def holderCode : Option Holder → Nat
  | none => 0
  | some (.chamber c) => c.val + 1
  | some (.line l) => l.val + 7

def InstState.code : InstState → Nat
  | .unknown => 0
  | .ok => 1
  | .failed => 2

/-- DESIGN CHOICE: no table lists the reasons, so they are numbered in the order of R150's sentence: REPLY 0, MISSES 1, CONFIG 2,
ENABLE 3, DISABLE 4 (notes/assumptions/48.md). -/
def InstReason.code : InstReason → Nat
  | .reply => 0
  | .misses => 1
  | .config => 2
  | .enable => 3
  | .disable => 4

def Role.code : Role → Nat
  | .flow k => k.val
  | .gaugeProcess => 8
  | .gaugeWide => 9
  | .throttle => 10
  | .source => 11
  | .bias => 12
  | .foreline => 13

def Lock.code : Lock → Nat
  | .open => 0
  | .guarded => 1
  | .locked => 2

def Nak.code : Nak → Nat
  | .badLength => 1
  | .unknownKind => 2
  | .badTarget => 3
  | .badValue => 4
  | .state => 5
  | .slotsFull => 6
  | .locked => 7
  | .inUse => 8
  | .duplicate => 9
  | .noChannel => 10
  | .incompatible => 11
  | .notConfigured => 12
  | .queueEmpty => 13
  | .queueFull => 14

/-- The input's code, and the chamber of a chamber input, 0 for a tool input (R183). -/
def inputCode : Input → Nat × Nat
  | .emo => (0, 0)
  | .foreOk => (1, 0)
  | .exhOk => (2, 0)
  | .cabOk n => (3 + n.val, 0)
  | .cfgProtect => (7, 0)
  | .lidClosed c => (8, c.val + 1)
  | .turboOk c => (9, c.val + 1)
  | .endpoint c => (10, c.val + 1)

/-- A level's code: R155's table lists the normal level first, then the other level. -/
def levelCode (i : Input) (l : Bool) : Nat := if l = normalLevel i then 0 else 1

/-- A qualified level's code, 2 for unqualified. -/
def qualCode (i : Input) : Option Bool → Nat
  | none => 2
  | some l => levelCode i l

/-- A number 1 to n as an index. -/
def oneBased (n m : Nat) : Option (Fin n) := if h : m - 1 < n then (if m = 0 then none else some ⟨m - 1, h⟩) else none

/-- A number 0 to n - 1 as an index. -/
def zeroBased (n m : Nat) : Option (Fin n) := if h : m < n then some ⟨m, h⟩ else none

/-- A line's number, 0 for none. -/
def lineNumber : Option Line → Nat
  | none => 0
  | some l => l.val + 1

end Sys2Proof.Machine
end

