-- ==== Sys2Proof/Machine/Instruments.lean ====
section
/-! DEFINITION. The Instrument Link Controller (chapter 9): instrument states and their reports, transactions, frames,
judging and routing replies. -/

namespace Sys2Proof.Machine

/-! ## Instrument states (R150, R151) -/

/-- A chamber entry in FAILED or UNKNOWN has no reading: a gauge's latest reading becomes none and the pressure is chosen
again without an evaluation, a channel's last-reading time becomes none and its deviation timer is cleared (R151, R18). -/
def forgetReading (c : Chamber) (r : Role) (s : State) : State :=
  match r with
  | .gaugeProcess => choosePressure c (s.modCh c (fun q => { q with processReading := none }))
  | .gaugeWide => choosePressure c (s.modCh c (fun q => { q with wideReading := none }))
  | .flow k => s.modChan c k (fun x => { x with lastTime := none, deviation := none })
  | _ => s

/-- The FORELINE entry is declared FAILED (R69). -/
def forelineFailed (s : State) : State :=
  let s := s.modFla (fun a => { a with pressure := none })
  let s := if s.fla.pause then postForeline (s.modFla (fun a => { a with pause := false })) else s
  match s.fla.holder with
  | some (.chamber c) => faultChamber c .instrument s
  | some (.line _) => yieldPumpout s
  | none => s

/-- A change of an entry's instrument state is reported to the owner's blocks (R151). The fields are those of the entry
whose state changed. -/
def ownerReport (p : PollCfg) (old new : InstState) (s : State) : State :=
  match ownerOf p.owner, roleOf p.role with
  | some (.chamber c), some r =>
    let s := if new = .ok then s else forgetReading c r s
    if new = .failed then faultChamber c .instrument s else s
  | some .tool, some .foreline =>
    match new with
    | .failed => forelineFailed s
    | .ok => if old = .failed then blockCleared s else s
    | .unknown =>
      let s := forelineUnknown s
      if old = .failed then blockCleared s else s
  | _, _ => s

/-- Posts INSTR for an entry (R150). -/
def postInstr (e : EntryIx) (p : PollCfg) (st : InstState) (reason : InstReason) (s : State) : State :=
  post (.instr e p.owner p.role p.address st reason) s

/-- An entry's instrument state changes, with INSTR and the reports (R150, R151). -/
def changeInst (e : EntryIx) (st : InstState) (reason : InstReason) (s : State) : State :=
  let p := s.cfg.poll.look e
  let old := (s.pollDyn e).state
  ownerReport p old st (postInstr e p st reason (s.modPoll e (fun x => { x with state := st })))

/-- A valid reply (R150). -/
def validReply (e : EntryIx) (s : State) : State :=
  let s := s.modPoll e (fun x => { x with misses := 0 })
  if (s.pollDyn e).state = .ok then s else changeInst e .ok .reply s

/-- A miss (R150). -/
def missReply (e : EntryIx) (s : State) : State :=
  let d := s.pollDyn e
  if d.state = .failed then s.modPoll e (fun x => { x with misses := Config.missLimit })
  else if d.misses + 1 < Config.missLimit then s.modPoll e (fun x => { x with misses := d.misses + 1 })
  else changeInst e .failed .misses (s.modPoll e (fun x => { x with misses := Config.missLimit }))

/-! ## Transactions (R144) -/

/-- The value a throttle request carries (R183). -/
def Throttle.value : Throttle → Nat
  | .open => 0
  | .pressure p => p

/-- The value a request carries, from the owner's target as it stands (R144). -/
def requestValue (s : State) (p : PollCfg) : Nat :=
  match ownerOf p.owner, roleOf p.role with
  | some (.chamber c), some (.flow k) => (s.chan c k).lastSent
  | some (.chamber c), some .throttle => (s.ch c).throttle.value
  | some (.chamber c), some .source => (s.ch c).source
  | some (.chamber c), some .bias => (s.ch c).bias
  | _, _ => 0

/-- The bytes of a request: address, function, value, check value (R183). -/
def requestBytes (p : PollCfg) (value : Nat) : List Byte :=
  let bs := u8 p.address ++ u8 p.role ++ u32 value
  bs ++ crcBytes bs

/-- The ramp update a build for a FLOW entry makes (R101). -/
def buildRamp (p : PollCfg) (s : State) : State :=
  match ownerOf p.owner, roleOf p.role with
  | some (.chamber c), some (.flow k) => rampUpdate c k s
  | _, _ => s

/-- A transaction is built for an entry, which is served by it (R144, R147). -/
def buildTxn (e : EntryIx) (s : State) : State :=
  let p := s.cfg.poll.look e
  let s := buildRamp p (s.modPoll e (fun x => { x with due := false, late := 0, countdown := p.period }))
  let t : Txn :=
    { number := s.ilc.built, entry := e, request := requestBytes p (requestValue s p), discarded := false, beforeStrike := false }
  s.modIlc (fun i => { i with inFlight := some t, built := i.built + 1 })

/-- The next transaction of the frame list is built, if one remains. -/
def buildNext (s : State) : State :=
  match s.ilc.frameRest with
  | [] => s
  | e :: rest => buildTxn e (s.modIlc (fun i => { i with frameRest := rest }))

/-! ## Frames (R146 to R148) -/

/-- The countdown of one entry at the beginning of a frame (R146). -/
def PollDyn.tick (used : Bool) (x : PollDyn) : PollDyn :=
  if used && !x.due then { x with countdown := x.countdown - 1, due := decide (x.countdown - 1 = 0) } else x

/-- Every countdown at the beginning of a frame. -/
def tickCountdowns (s : State) : State :=
  (allIx 96).foldl (fun s e => s.modPoll e (PollDyn.tick (s.cfg.poll.look e).used)) s

/-- A used entry is due. -/
def isDue (s : State) (e : EntryIx) : Bool := (s.cfg.poll.look e).used && (s.pollDyn e).due

/-- The frame list: urgent entries, then due entries in ascending number, up to the budget (R147). -/
def frameList (s : State) : List EntryIx :=
  let urgent := s.ilc.urgent.take s.cfg.budget
  let due := (allIx 96).filter (fun e => isDue s e && !decide (e ∈ urgent))
  urgent ++ due.take (s.cfg.budget - urgent.length)

/-- A due entry the frame leaves out is counted late; at a count of 5 SATURATED is posted (R148). -/
def countLate (e : EntryIx) (s : State) : State :=
  let n := min ((s.pollDyn e).late + 1) Config.lateCountMax
  let first := decide ((s.pollDyn e).late + 1 = Config.saturatedAt)
  let s := s.modPoll e (fun x => { x with late := n })
  if first then post (.saturated e (s.cfg.poll.look e).owner (s.cfg.poll.look e).role n) s else s

/-- An instrument frame begins: countdowns, frame list, late entries, first transaction (R146). DESIGN CHOICE: the late entries
are counted, and their SATURATED events posted, in ascending number (notes/assumptions/41.md). -/
def beginFrame (s : State) : State :=
  let s := tickCountdowns s
  let fl := frameList s
  let s := s.modIlc (fun i =>
    { i with urgent := i.urgent.drop s.cfg.budget, frameRest := fl, inFlight := none, frameAt := s.now })
  let s := (allIx 96).foldl (fun s e => if isDue s e && !decide (e ∈ fl) then countLate e s else s) s
  buildNext s

/-- The next frame may begin: the table is enabled, the list is done and 10 ms have passed since the last began (R146). -/
def frameMayBegin (s : State) : Bool :=
  s.cfg.enabled && s.ilc.inFlight.isNone && s.ilc.frameRest.isEmpty
    && decide (s.ilc.frameAt + Config.instrumentFrameMs ≤ s.now)

/-- A transaction has ended: the next is built, or the next frame begins if its 10 ms have passed (R144, R146). -/
def endTxn (s : State) : State :=
  let s := buildNext (s.modIlc (fun i => { i with inFlight := none }))
  if frameMayBegin s then beginFrame s else s

/-! ## Judging and routing replies (R145, R152) -/

/-- The transaction of a number, while it is in flight. -/
def Ilc.awaits (i : Ilc) (txn : Nat) : Option Txn := i.inFlight.filter (fun t => decide (t.number = txn))

/-- The data bytes of a reply for a role (R183). -/
def dataLength : Role → Nat
  | .flow _ => 2
  | .gaugeProcess => 4
  | .gaugeWide => 4
  | .throttle => 2
  | .source => 4
  | .bias => 4
  | .foreline => 4

/-- The role's reply carries a pressure. -/
def Role.isPressure : Role → Bool
  | .gaugeProcess => true
  | .gaugeWide => true
  | .foreline => true
  | _ => false

/-- The data of a valid reply: its address, length, check value and status are right, and a pressure is in range; none is
a miss (R145). -/
def judgeReply (p : PollCfg) (r : Role) (bs : List Byte) : Option (List Byte) :=
  let n := dataLength r
  let data := (bs.drop 2).take n
  if bs.length = 4 + n ∧ field bs 0 1 = p.address ∧ field bs 1 1 = 0
      ∧ bs.drop (2 + n) = crcBytes (bs.take (2 + n))
      ∧ (r.isPressure = true → bytesNat data ≤ Config.pressureMax) then some data
  else none

/-- The strike test passes: forward at least 80 % of the setpoint, reflected at most 20 % of forward (R122). -/
def strikePasses (setpoint forward reflected : Nat) : Bool :=
  decide (setpoint * 8 ≤ forward * 10) && decide (reflected * 5 ≤ forward)

/-- The CSQ takes a SOURCE reading; in STRIKE it is tested if its transaction was built at or after STRIKE entry (R122). -/
def takeSource (c : Chamber) (before : Bool) (f r : Nat) (s : State) : State :=
  let s := s.modCh c (fun q => { q with genReading := some (f, r) })
  match (s.ch c).exec with
  | none => s
  | some e =>
    if (s.ch c).inPhase .strike && !before && strikePasses e.record.sourceA f r then strikeConfirmed c s else s

/-- A valid reading goes to its owner (R152). -/
def routeReading (p : PollCfg) (before : Bool) (data : List Byte) (s : State) : State :=
  match ownerOf p.owner, roleOf p.role with
  | some (.chamber c), some (.flow k) => takeFlowReading c k (bytesNat data) s
  | some (.chamber c), some .gaugeProcess =>
    evaluatePressure c (s.modCh c (fun q => { q with processReading := some (bytesNat data) }))
  | some (.chamber c), some .gaugeWide =>
    evaluatePressure c (s.modCh c (fun q => { q with wideReading := some (bytesNat data) }))
  | some (.chamber c), some .throttle => s.modCh c (fun q => { q with throttlePos := some (bytesNat data) })
  | some (.chamber c), some .source => takeSource c before (field data 0 2) (field data 2 2) s
  | some (.chamber c), some .bias => s.modCh c (fun q => { q with biasReading := some (field data 0 2, field data 2 2) })
  | some .tool, some .foreline => takeForelineReading (bytesNat data) s
  | _, _ => s

/-- A complete reply of the transaction in flight is judged, taken and routed; a reply with nothing to judge is discarded
(R142, R145). -/
def takeReply (t : Txn) (bs : List Byte) (s : State) : State :=
  let p := s.cfg.poll.look t.entry
  match roleOf p.role with
  | none => missReply t.entry s
  | some r =>
    match judgeReply p r bs with
    | none => missReply t.entry s
    | some data => routeReading p t.beforeStrike data (validReply t.entry s)

/-! ## Schedules (R142, R143, R154) -/

/-- The countdown loaded at enable: 1 + (entry number mod period) (R143). -/
def firstCountdown (e : EntryIx) (period : Nat) : Nat := 1 + e.val % period

/-- A used entry's schedule is loaded afresh (R143, R154). -/
def PollDyn.fresh (e : EntryIx) (p : PollCfg) (x : PollDyn) : PollDyn :=
  if p.used then { x with countdown := firstCountdown e p.period, due := false, late := 0 } else x

/-- A used entry's instrument state becomes UNKNOWN with miss count 0; a change is posted and reported (R143). -/
def toUnknown (e : EntryIx) (reason : InstReason) (s : State) : State :=
  if !(s.cfg.poll.look e).used then s
  else
    let s := s.modPoll e (fun x => { x with misses := 0 })
    if (s.pollDyn e).state = .unknown then s else changeInst e .unknown reason s

end Sys2Proof.Machine
end

