-- ==== Sys2Proof/Machine/Interlocks.lean ====
section
/-! DEFINITION. The Interlock Input Unit (chapter 10): qualification, EMO, output forcing, the notices to owners and what
the owners do with them. -/

namespace Sys2Proof.Machine

/-! ## Output forcing (R158) -/

/-- Applies a change to every chamber valve and every line pump valve. -/
def mapValves (f : Nat → Valve → Valve) (s : State) : State :=
  let s := (allIx 6).foldl (fun s c => s.modCh c (fun q =>
    { q with
      gate := f (travelOf s c .gate) q.gate
      roughSoft := f (travelOf s c .roughSoft) q.roughSoft
      roughFast := f (travelOf s c .roughFast) q.roughFast
      vent := f (travelOf s c .vent) q.vent })) s
  s.modFla (fun a => { a with pumps := (allIx 12).foldl (fun t l => t.put l (f s.cfg.pumpTravel (a.pumps.look l))) a.pumps })

/-- Output forcing begins: every valve output is de-energised (R158). -/
def beginForcing (s : State) : State :=
  mapValves (Valve.force s.now) (s.modIiu (fun u => { u with forcing := true }))

/-- Output forcing ends: every output follows its owner's command (R158). -/
def endForcing (s : State) : State :=
  mapValves (Valve.unforce s.now) (s.modIiu (fun u => { u with forcing := false }))

/-! ## Qualified changes (R155, R159, R161) -/

/-- The owners told of an input's qualified changes (R155). -/
def noticeOwners : Input → List NoticeOwner
  | .emo => (allIx 6).map .csq ++ [.fla, .gat]
  | .foreOk => (allIx 6).map .csq ++ [.fla]
  | .exhOk => (allIx 6).map .csq
  | .cabOk _ => [.gat]
  | .cfgProtect => [.svl]
  | .lidClosed c => [.csq c]
  | .turboOk c => [.csq c]
  | .endpoint c => [.csq c]

/-- The owners are told (R159). -/
def tellOwners (i : Input) (l : Bool) (s : State) : State :=
  s.modIiu (fun u => { u with notices := u.notices ++ (noticeOwners i).map (fun o => { owner := o, input := i, level := l }) })

/-- The qualified level takes a level: ILOCK is posted, and the owners are told if the level they read has changed. -/
def qualify (i : Input) (l : Bool) (s : State) : State :=
  let first := decide ((s.inp i).qual = none)
  let before := levelRead s i
  let s := s.modInp i (fun x => { x with qual := some l, timer := none })
  let s := post (.ilock i l first) s
  if before = l then s else tellOwners i l s

/-- A raw EMO assertion (R157). -/
def assertEmo (s : State) : State :=
  let s' := s.modInp .emo (fun x => { x with raw := true, timer := none })
  if (s.inp .emo).qual = some true then s'
  else qualify .emo true (if (s.inp .emo).qual = none then s' else beginForcing s')

/-- A raw level change of a qualified input: its qualification timer starts, stops or restarts (R156). A raw EMO assertion
is R157's. -/
def rawChange (i : Input) (l : Bool) (s : State) : State :=
  if (s.inp i).raw = l then s
  else if i = .emo ∧ l = true then assertEmo s
  else s.modInp i (fun x =>
    { x with raw := l, timer := if x.qual = some l then none else some (s.now + s.cfg.qualMs.look (inputIx i)) })

/-- A qualification timer expires: the qualified level becomes the raw level; forcing ends with EMO released (R156, R158). -/
def qualifyExpired (i : Input) (s : State) : State :=
  let l := (s.inp i).raw
  qualify i l (if i = .emo ∧ l = false then endForcing s else s)

/-! ## ARC (R128, R160) -/

/-- A rising ARC edge: delivered and the merge timer started, or merged (R128). -/
def arcRise (c : Chamber) (s : State) : State :=
  let s := s.modIiu (fun u => { u with arcRaw := u.arcRaw.put c true })
  if (s.iiu.merge.look c).isSome then s
  else takeArc c (s.modIiu (fun u => { u with merge := u.merge.put c (some (s.now + Config.arcMergeMs)) }))

/-! ## What owners do with a notice (R159) -/

/-- A CSQ takes a notice (R14, R125, R159). -/
def csqNotice (c : Chamber) (i : Input) (l : Bool) (s : State) : State :=
  let q := s.ch c
  match i, l with
  | .emo, true => faultChamber c .emo s
  | .foreOk, false => if q.gate.countsOpen || holdsForeline s c then faultChamber c .forelineLost s else s
  | .exhOk, false =>
    if (decide (q.state = .running) || decide (q.state = .held)) && (anyStickOpen s c || rfOn s c) then
      faultChamber c .exhaust s
    else s
  | .lidClosed _, false =>
    if decide (q.state = .running) || decide (q.state = .held) || decide (q.vac = .roughed) || decide (q.vac = .highvac) then
      faultChamber c .lid s
    else s
  | .turboOk _, false => if q.gate.countsOpen then faultChamber c .turbo s else s
  | .endpoint _, true =>
    match q.exec with
    | none => s
    | some e =>
      if q.inPhase .etch && decide (e.record.endMode = .endpoint) && e.maskDone && e.endpointMs.isNone then
        endpointReached c s
      else s
  | _, _ => s

/-- The FLA takes a notice (R70, R71). -/
def flaNotice (i : Input) (l : Bool) (s : State) : State :=
  match i, l with
  | .emo, true => yieldPumpout s
  | .emo, false => blockCleared s
  | .foreOk, false => yieldPumpout s
  | .foreOk, true => blockCleared s
  | _, _ => s

/-- CAB_OKn is qualified false: the cabinet's lines in service are locked out, ascending; one service run is owed (R82). -/
def cabinetDrop (n : Cabinet) (s : State) : State :=
  (allIx 12).foldl (fun s l =>
    let here := match s.cfg.lines.look l with
      | none => false
      | some r => decide (r.cabinet = n)
    if here && ((s.ln l).state = .ready || (s.ln l).state = .pumpoutPending || (s.ln l).state = .pumpingOut) then
      lockOut l .cabinet s
    else s) s

/-- The GAT takes a notice (R82, R90). -/
def gatNotice (i : Input) (l : Bool) (s : State) : State :=
  match i, l with
  | .emo, false => oweService s
  | .cabOk n, false => cabinetDrop n s
  | _, _ => s

/-- An owner takes a notice; a change it has no action for has no effect (R159). -/
def takeNotice (n : Notice) (s : State) : State :=
  match n.owner with
  | .csq c => csqNotice c n.input n.level s
  | .fla => flaNotice n.input n.level s
  | .gat => gatNotice n.input n.level s
  | .svl => s

end Sys2Proof.Machine
end

