-- ==== Sys2Proof/Machine/Status.lean ====
section
/-! DEFINITION. What the part sends (R183): frames, event records, step reports, the bodies of STAT, RDCFG and TOTL. The
layouts R183 gives by its size rules alone are those of notes/assumptions/17.md to 20.md. -/

namespace Sys2Proof.Machine

/-! ## Frames (R173) -/

/-- A frame as sent: start byte, LEN, KIND, TAG, body, CRC (R173). -/
def frameBytes (kind tag : Byte) (body : List Byte) : List Byte :=
  let bs := u8 body.length ++ [kind, tag] ++ body
  [0xA5#8] ++ bs ++ crcBytes bs

/-- A reply as sent: ACK 0x80 with its body, NAK 0x81 with its code (R175, R183). -/
def replyFrame (r : Reply) : List Byte :=
  match r.body with
  | .ack body => frameBytes 0x80#8 r.tag body
  | .nak code => frameBytes 0x81#8 r.tag (u8 code.code)

/-! ## Event records (R183) -/

/-- The code of an event and its fields in the order of the owning rule. -/
def Event.bytes : Event → Nat × List Byte
  | .chstate c st ph v => (1, u8 (c.val + 1) ++ u8 st.code ++ u8 ph.code ++ u8 v.code)
  | .stepbegin c id k => (2, u8 (c.val + 1) ++ u16 id ++ u8 k.code)
  | .stepend c id r => (3, u8 (c.val + 1) ++ u16 id ++ u8 r.code)
  | .fault c r => (4, u8 (c.val + 1) ++ u8 r.code)
  | .ilock i l first => (5, u8 (inputCode i).1 ++ u8 (inputCode i).2 ++ u8 (levelCode i l) ++ u8 (flag first))
  | .linestate l st total cause => (6, u8 (l.val + 1) ++ u8 st.code ++ u16 total ++ u8 cause.code)
  | .foreline st h p n => (7, u8 st.code ++ u8 (holderCode h) ++ u8 (flag p) ++ u8 n)
  | .instr e o r a st reason => (8, u8 e.val ++ u8 o ++ u8 r ++ u8 a ++ u8 st.code ++ u8 reason.code)
  | .saturated e o r n => (9, u8 e.val ++ u8 o ++ u8 r ++ u8 n)
  | .mark v => (10, u32 v)

/-- An event record's body: code, time tag, fields (R183). -/
def eventBody (e : EventRec) : List Byte := u8 e.event.bytes.1 ++ u32 e.tag ++ e.event.bytes.2

/-- An EVT frame, with TAG 0 (R176). -/
def eventFrame (e : EventRec) : List Byte := frameBytes 0x82#8 0#8 (eventBody e)

/-! ## Step reports (R183) -/

/-- The warnings as one flag group, in the order R183 gives for byte 42 of a report. DESIGN CHOICE: the STEP ACK, for which R183 gives
no order, has the same (notes/assumptions/51.md). -/
def Warnings.bits (w : Warnings) : Nat :=
  flags [w.flowClamped, w.flowRaised, w.pressureClamped, w.powerClamped, w.timeClamped, w.toleranceClamped]

/-- The RPT ACK body (R183). -/
def reportBody (c : Chamber) (r : Report) : List Byte :=
  u8 (c.val + 1) ++ u16 r.id ++ u8 r.kind.code ++ u8 r.result.code
    ++ u8 (flags [r.loss, r.purged, r.endpointMs.isSome, r.overetchMs.isSome, r.cycles.isSome, r.minMax.isSome])
    ++ u32 r.startTag ++ u32 r.endTag ++ u32 r.admitWait ++ u32 r.mainMs
    ++ u32 (r.endpointMs.getD 0) ++ u32 (r.overetchMs.getD 0)
    ++ u16 (r.cycles.getD 0) ++ u16 r.arcs
    ++ u32 (r.minMax.getD (0, 0)).1 ++ u32 (r.minMax.getD (0, 0)).2
    ++ u8 r.warnings.bits ++ u8 r.gas.length
    ++ r.gas.flatMap (fun g => u8 (g.1.val + 1) ++ u48 g.2)

/-! ## STAT (R179) -/

/-- The head of every STAT reply (R179). DESIGN CHOICE: in its flag byte link-fault is bit 0 and events-lost bit 1
(notes/assumptions/52.md). -/
def statHead (s : State) (target page : Nat) : List Byte :=
  u32 (timeTag s) ++ u8 (flags [s.svl.linkFault, s.svl.eventsLost]) ++ u8 s.svl.events.length
    ++ u8 s.cfg.lock.code ++ u8 (qualCode .cfgProtect (s.inp .cfgProtect).qual) ++ u8 target ++ u8 page

/-- A counted list of holdings. -/
def holdingsBytes (hs : List Holding) : List Byte :=
  u8 hs.length ++ hs.flatMap (fun h => u8 (h.line.val + 1) ++ u16 h.flow)

/-- Tool page 0: foreline and arbiter (R59), lines and admission queue (R76). DESIGN CHOICE: sets are flag bytes and an admit timer is
its remaining ms (notes/assumptions/49.md). -/
def toolPage0 (s : State) : List Byte :=
  u8 s.fla.state.code ++ u8 (holderCode s.fla.holder) ++ u8 (flag s.fla.pause)
    ++ u8 (flag s.fla.pressure.isSome) ++ u32 (s.fla.pressure.getD 0)
    ++ u8 (flags ((allIx 6).map (fun c => s.fla.waiting.look c)))
    ++ u8 s.fla.list.length
    ++ s.fla.list.flatMap (fun p => u8 (p.line.val + 1)
        ++ u32 (if s.fla.holder = some (.line p.line) then p.progress s else p.acc))
    ++ u8 (flags [emoAsserted s, !foreOk s, gaugeBlock s])
    ++ (allIx 12).flatMap (fun l => u8 (s.ln l).state.code ++ u16 (allocated s l))
    ++ u8 s.gat.queue.length
    ++ s.gat.queue.flatMap (fun c => u8 (c.val + 1) ++ u32 (timerLeft s (s.ch c).admitTimer))

/-- Tool page 1: input levels and output forcing (R161), poll table status (R141). DESIGN CHOICE: the six ARC raw levels are one flag
byte between the records of the qualified inputs and output forcing, a set bit for a high level (notes/assumptions/47.md). -/
def toolPage1 (s : State) : List Byte :=
  allInputs.flatMap (fun i => u8 (levelCode i (s.inp i).raw) ++ u8 (qualCode i (s.inp i).qual)
        ++ u8 (flag (s.inp i).timer.isSome) ++ u32 (timerLeft s (s.inp i).timer))
    ++ u8 (flags ((allIx 6).map (fun c => s.iiu.arcRaw.look c)))
    ++ u8 (flag s.iiu.forcing)
    ++ u8 (flags ((allIx 6).map (fun c => (s.iiu.merge.look c).isSome)))
    ++ u8 (flag s.cfg.enabled) ++ u8 s.cfg.budget ++ u16 s.cfg.window
    ++ u8 s.ilc.urgent.length ++ s.ilc.urgent.flatMap (fun e => u8 e.val)

/-- One poll entry's status; an unused entry carries used no and zeros (R179). -/
def pollStatus (s : State) (e : EntryIx) : List Byte :=
  if (s.cfg.poll.look e).used then
    u8 1 ++ u8 (s.pollDyn e).state.code ++ u8 (s.pollDyn e).misses ++ u8 (flag (s.pollDyn e).due) ++ u8 (s.pollDyn e).late
  else u8 0 ++ u8 0 ++ u8 0 ++ u8 0 ++ u8 0

/-- Tool pages 2 to 7: sixteen poll entries each (R179). -/
def toolPollPage (s : State) (page : Nat) : List Byte :=
  ((allIx 96).filter (fun e => e.val / 16 = page - 2)).flatMap (pollStatus s)

/-- One slot: owner, step id, executing or waiting (R35). DESIGN CHOICE: HOST 0, PART 1, waiting 0, executing 1, and the owner byte
stands as the presence byte of the step id and of the byte after it (notes/assumptions/43.md). -/
def slotStatus (q : Csq) (sl : Slot) : List Byte :=
  match q.slot sl with
  | none => u8 0 ++ u16 0 ++ u8 0
  | some r => u8 1 ++ u16 r.id ++ u8 (flag (decide (q.exec.map (·.slot) = some sl)))

/-- An optional field: a presence byte ahead of it, and 0 where it is absent (R183). -/
def optByte (x : Option Nat) : List Byte := u8 (flag x.isSome) ++ u8 (x.getD 0)
def optWord (x : Option Nat) : List Byte := u8 (flag x.isSome) ++ u16 (x.getD 0)
def optLong (x : Option Nat) : List Byte := u8 (flag x.isSome) ++ u32 (x.getD 0)

/-- A generator reading: a presence byte, forward and reflected power (R122, R183). -/
def optPower (x : Option (Nat × Nat)) : List Byte :=
  u8 (flag x.isSome) ++ u16 (x.getD (0, 0)).1 ++ u16 (x.getD (0, 0)).2

/-- Chamber page 0 (R179, R35, R76, R18, R112, R122). DESIGN CHOICE: the residue is a flag byte, and the pending request a presence
byte and its wants (notes/assumptions/49.md). -/
def chamberPage0 (s : State) (c : Chamber) : List Byte :=
  let q := s.ch c
  u8 q.state.code ++ u8 q.phase.code ++ u8 q.vac.code ++ u8 (causeCode q.cause)
    ++ slotStatus q .a ++ slotStatus q .b ++ u8 q.loadPtr.code ++ u8 q.runPtr.code ++ u8 q.reports.length
    ++ holdingsBytes q.holdings
    ++ u8 (flags ((allIx 8).map (fun g => q.residue.look g)))
    ++ u8 (flag q.request.isSome) ++ holdingsBytes ((q.request.map (·.wants)).getD [])
    ++ optLong q.pressure ++ optLong q.processReading ++ optLong q.wideReading ++ optWord q.throttlePos
    ++ optPower q.genReading ++ optPower q.biasReading

/-- One channel context: target, current command, latest reading, deviation timer (R100). -/
def channelStatus (s : State) (c : Chamber) (k : Channel) : List Byte :=
  let x := s.chan c k
  u16 x.target ++ u16 x.current ++ optWord x.reading ++ optLong (x.deviation.map (fun t => s.now - t))

/-- A timer of the executing step: running or not, and its remaining ms. -/
def timerStatus (s : State) (t : Timer) : List Byte := u8 (flag t.isSome) ++ u32 (timerLeft s t)

/-- A field that only a CYCLE step has (R140). -/
def StepCtx.cycleField (e : StepCtx) (n : Nat) : Option Nat := if e.record.kind = .cycle then some n else none

/-- Whether the mask has expired: a field that only a PLASMA step in ENDPOINT mode has (R130). -/
def StepCtx.maskField (e : StepCtx) : Option Nat :=
  if e.record.kind = .plasma ∧ e.record.endMode = .endpoint then some (flag e.maskDone) else none

/-- The ms since ETCH was entered, absent before. DESIGN CHOICE: it goes on in OVERETCH (notes/assumptions/40.md). -/
def StepCtx.etchElapsed (e : StepCtx) (now : Nat) : Option Nat := e.etchAt.map (fun t => now - t)

/-- The timers and counters of the executing step, in the order R54, R130 and R140 name them, an item once; zeros with no
executing step (notes/assumptions/19.md). DESIGN CHOICE: the vent and the admit timer, which no rule places, stand behind the base
timer (notes/assumptions/45.md). -/
def execStatus (s : State) (c : Chamber) : List Byte :=
  match (s.ch c).exec with
  | none => List.replicate 82 0#8
  | some e =>
    u8 (flag e.roughSince.isSome) ++ u32 (e.roughElapsed s.now)
      ++ timerStatus s e.baseTimer ++ timerStatus s e.ventTimer ++ timerStatus s (s.ch c).admitTimer
      ++ timerStatus s e.purgeTimer ++ timerStatus s e.settleLimit ++ timerStatus s e.settleTimer
      ++ timerStatus s e.duration ++ timerStatus s e.excursion ++ timerStatus s e.strikeTimer
      ++ timerStatus s e.maskTimer ++ timerStatus s e.overetchTimer
      ++ u16 e.arcs ++ optLong (e.etchElapsed s.now) ++ optByte e.maskField
      ++ optWord (e.cycleField e.cycles) ++ optWord (e.cycleField e.record.cycleCount)
      ++ optByte (e.cycleField (flag e.firstCycle)) ++ timerStatus s e.cycleTimer

/-- Chamber page 1: channel contexts, timers and counters (R179). -/
def chamberPage1 (s : State) (c : Chamber) : List Byte := (allIx 8).flatMap (channelStatus s c) ++ execStatus s c

/-- The status of one page; none for a target or page outside R179's. -/
def statPage (s : State) (target page : Nat) : Option (List Byte) :=
  if target = 0 then
    match page with
    | 0 => some (toolPage0 s)
    | 1 => some (toolPage1 s)
    | n => if n ≤ 7 then some (toolPollPage s n) else none
  else
    match oneBased 6 target with
    | none => none
    | some c =>
      match page with
      | 0 => some (chamberPage0 s c)
      | 1 => some (chamberPage1 s c)
      | _ => none

/-! ## TOTL (R109) -/

/-- One line's totals (R109). -/
def totalBytes (s : State) (l : Line) : List Byte :=
  let x := s.ln l
  u8 (l.val + 1) ++ u8 x.state.code ++ u48 x.total ++ u32 x.rem ++ u8 (flag (decide (x.total = Config.totalMax)))

/-! ## RDCFG (R172) -/

/-- A line record and the line's state. -/
def lineCfgBytes (s : State) (l : Line) (r : LineCfg) : List Byte :=
  u16 r.gasCode ++ u8 r.cls.val ++ u16 r.gcf ++ u16 r.capacity ++ u8 (r.cabinet.val + 1) ++ u16 r.pumpS
    ++ u8 (s.ln l).state.code

/-- A row of the compatibility matrix: COMPATIBLE 0, INCOMPATIBLE 1 for each class. -/
def matrixRow (s : State) (i : GasClass) : List Byte :=
  (allIx 8).flatMap (fun j => u8 (if compatible s i j then 0 else 1))

/-- Chamber parameters, in R169's order. -/
def paramBytes (p : ChamberParams) : List Byte :=
  u16 p.gateTravel ++ u16 p.roughTravel ++ u16 p.ventTravel ++ u32 p.softRough ++ u32 p.crossover ++ u32 p.atmosphere
    ++ u32 p.processFullScale ++ u32 p.minControl ++ u32 p.maxControl ++ u16 p.roughTimeoutS ++ u16 p.baseTimeoutS
    ++ u16 p.ventTimeoutS ++ u16 p.admitLimitS ++ u16 p.settleLimitS ++ u16 p.holdLimitS ++ u32 p.excursionMs
    ++ u32 p.strikeMs ++ u16 p.purgeTimeS ++ u8 (lineNumber p.purgeLine) ++ u16 p.purgeFlow ++ u16 p.sourceMax
    ++ u16 p.biasMax ++ u16 p.deviationTol ++ u32 p.flowFaultMs

/-- A channel map entry (R171). -/
def mapBytes (m : MapEntry) : List Byte := u8 (lineNumber m.line) ++ u16 m.fs ++ u16 m.floor ++ u16 m.ramp

/-- A poll entry's fields as last written (R141, R172). -/
def pollBytes (p : PollCfg) : List Byte := u8 (flag p.used) ++ u8 p.address ++ u8 p.owner ++ u8 p.role ++ u16 p.period

/-- The foreline settings (R72). -/
def forelineBytes (s : State) : List Byte :=
  s.cfg.chain.flatMap (fun c => u8 (c.val + 1)) ++ u32 s.cfg.backingLimit ++ u32 s.cfg.resumeLevel ++ u16 s.cfg.pumpTravel

end Sys2Proof.Machine
end

