-- ==== Sys2Proof/Machine/Operands.lean ====
section
/-! DEFINITION. Requests as they stand in frames (R174, R183): the request kinds, their body lengths, the fields of their
bodies, and the test orders by which the first test that fails gives the refusal. -/

namespace Sys2Proof.Machine

/-- The request kinds (R183). -/
inductive ReqKind where
  | ident | stat | cfgln | cfgcx | cfgch | cfgmap | cfgpt | cfgfl | cfgiq | cfglk | rdcfg | pten | onln | offln | step
  | abrt | rsus | rres | clrf | line | rpt | totl | evmsk | mark | rset
  deriving DecidableEq, Repr

/-- The request kind a KIND byte names (R183). -/
def reqKindOf (b : Byte) : Option ReqKind :=
  match b.toNat with
  | 0x01 => some .ident
  | 0x02 => some .stat
  | 0x03 => some .cfgln
  | 0x04 => some .cfgcx
  | 0x05 => some .cfgch
  | 0x06 => some .cfgmap
  | 0x07 => some .cfgpt
  | 0x08 => some .cfgfl
  | 0x09 => some .cfgiq
  | 0x0A => some .cfglk
  | 0x0B => some .rdcfg
  | 0x0C => some .pten
  | 0x0D => some .onln
  | 0x0E => some .offln
  | 0x0F => some .step
  | 0x10 => some .abrt
  | 0x11 => some .rsus
  | 0x12 => some .rres
  | 0x13 => some .clrf
  | 0x14 => some .line
  | 0x15 => some .rpt
  | 0x16 => some .totl
  | 0x17 => some .evmsk
  | 0x18 => some .mark
  | 0x19 => some .rset
  | _ => none

/-- The body length of a kind; STEP's is test 1 of R28 (R174, R183). -/
def bodyLength : ReqKind → Option Nat
  | .ident => some 0
  | .stat => some 2
  | .cfgln => some 11
  | .cfgcx => some 3
  | .cfgch => some 66
  | .cfgmap => some 9
  | .cfgpt => some 7
  | .cfgfl => some 16
  | .cfgiq => some 6
  | .cfglk => some 1
  | .rdcfg => some 3
  | .pten => some 4
  | .onln => some 1
  | .offln => some 1
  | .step => none
  | .abrt => some 1
  | .rsus => some 1
  | .rres => some 1
  | .clrf => some 1
  | .line => some 2
  | .rpt => some 1
  | .totl => some 1
  | .evmsk => some 1
  | .mark => some 4
  | .rset => some 0

/-- The body fits the kind (R174 test 2). -/
def lengthFits (k : ReqKind) (body : List Byte) : Bool :=
  match bodyLength k with
  | none => true
  | some n => decide (body.length = n)

/-- The first test that fails gives the refusal. -/
def refusal : List (Bool × Nak) → Option Nak
  | [] => none
  | t :: rest => if t.1 then refusal rest else some t.2

/-- A value is in a range, ends included. -/
def within (n lo hi : Nat) : Bool := decide (lo ≤ n) && decide (n ≤ hi)

/-- The chamber a one-byte body names. -/
def bodyChamber (body : List Byte) : Option Chamber := oneBased 6 (field body 0 1)

/-! ## CFGLN, CFGCH, CFGMAP, CFGPT, CFGIQ, CFGFL bodies -/

/-- The line record of a CFGLN body whose fields are in range (R166). -/
def lineCfgOf (body : List Byte) : Option LineCfg :=
  match zeroBased 8 (field body 3 1), oneBased 4 (field body 8 1) with
  | some cls, some cab =>
    if within (field body 4 2) 100 2000 && within (field body 6 2) 0 50000 && within (field body 9 2) 10 600 then
      some { gasCode := field body 1 2, cls := cls, gcf := field body 4 2, capacity := field body 6 2, cabinet := cab,
             pumpS := field body 9 2 }
    else none
  | _, _ => none

/-- The purge line a number names: 0 is none (R169). -/
def purgeLineOf (n : Nat) : Option Line := oneBased 12 n

/-- The parameters of a CFGCH body, in R169's order. -/
def paramsOf (body : List Byte) : ChamberParams where
  gateTravel := field body 1 2
  roughTravel := field body 3 2
  ventTravel := field body 5 2
  softRough := field body 7 4
  crossover := field body 11 4
  atmosphere := field body 15 4
  processFullScale := field body 19 4
  minControl := field body 23 4
  maxControl := field body 27 4
  roughTimeoutS := field body 31 2
  baseTimeoutS := field body 33 2
  ventTimeoutS := field body 35 2
  admitLimitS := field body 37 2
  settleLimitS := field body 39 2
  holdLimitS := field body 41 2
  excursionMs := field body 43 4
  strikeMs := field body 47 4
  purgeTimeS := field body 51 2
  purgeLine := purgeLineOf (field body 53 1)
  purgeFlow := field body 54 2
  sourceMax := field body 56 2
  biasMax := field body 58 2
  deviationTol := field body 60 2
  flowFaultMs := field body 62 4

/-- Every field of a CFGCH body is in its range (R169 test 2). -/
def paramsInRange (body : List Byte) : Bool :=
  let p := paramsOf body
  within p.gateTravel 20 2000 && within p.roughTravel 20 2000 && within p.ventTravel 20 2000
    && within p.softRough 1000000 700000000 && within p.crossover 10000 1000000
    && within p.atmosphere 500000000 1000000000 && within p.processFullScale 10000 1000000000
    && within p.minControl 100 1000000 && within p.maxControl 1000 10000000
    && within p.roughTimeoutS 10 1800 && within p.baseTimeoutS 10 3600 && within p.ventTimeoutS 10 600
    && within p.admitLimitS 1 600 && within p.settleLimitS 1 600 && within p.holdLimitS 0 600
    && within p.excursionMs 0 10000 && within p.strikeMs 100 5000 && within p.purgeTimeS 1 120
    && within (field body 53 1) 0 12 && within p.purgeFlow 0 50000 && within p.sourceMax 100 5000
    && within p.biasMax 0 2000 && within p.deviationTol 50 2000 && within p.flowFaultMs 100 10000

/-- The orderings of R169 test 3. -/
def paramsOrdered (p : ChamberParams) : Bool :=
  decide (p.crossover < p.softRough) && decide (p.softRough < p.atmosphere) && decide (p.minControl < p.maxControl)

/-- The map entry of a CFGMAP body (R171). -/
def mapOf (body : List Byte) : MapEntry :=
  { line := oneBased 12 (field body 2 1), fs := field body 3 2, floor := field body 5 2, ramp := field body 7 2 }

/-- The poll entry of a CFGPT body (R141). -/
def pollOf (body : List Byte) : PollCfg :=
  { used := decide (field body 1 1 % 2 = 1), address := field body 2 1, owner := field body 3 1, role := field body 4 1,
    period := field body 5 2 }

/-- Owner and role agree: FORELINE is TOOL's, and TOOL's alone (R141). -/
def ownerRoleAgree (p : PollCfg) : Bool :=
  match ownerOf p.owner, roleOf p.role with
  | some .tool, some .foreline => true
  | some .tool, _ => false
  | some (.chamber _), some .foreline => false
  | some (.chamber _), some _ => true
  | _, _ => false

/-- A used entry's fields are in range and agree; an unused entry's are not tested (R142 test 2). -/
def pollInRange (p : PollCfg) : Bool :=
  !p.used || (within p.address 1 127 && within p.period 1 50 && ownerRoleAgree p)

/-- The input an input code names, for a tool input. -/
def toolInputOf : Nat → Option Input
  | 0 => some .emo
  | 1 => some .foreOk
  | 2 => some .exhOk
  | 3 => some (.cabOk 0)
  | 4 => some (.cabOk 1)
  | 5 => some (.cabOk 2)
  | 6 => some (.cabOk 3)
  | 7 => some .cfgProtect
  | _ => none

/-- The input of a chamber an input code names. -/
def chamberInputOf (n : Nat) (c : Chamber) : Option Input :=
  match n with
  | 8 => some (.lidClosed c)
  | 9 => some (.turboOk c)
  | 10 => some (.endpoint c)
  | _ => none

/-- The input an input code and a chamber number name; the chamber of a tool input is not tested (R183). -/
def inputOf (n ch : Nat) : Option Input :=
  match toolInputOf n with
  | some i => some i
  | none => (oneBased 6 ch).bind (chamberInputOf n)

/-- The inputs a CFGIQ names: one, or a chamber input of all six chambers for chamber 0 (R162). -/
def inputsOf (n ch : Nat) : List Input :=
  match toolInputOf n with
  | some i => [i]
  | none => if ch = 0 then (allIx 6).filterMap (chamberInputOf n) else ((oneBased 6 ch).bind (chamberInputOf n)).toList

/-- The chain order of a CFGFL body: the six chambers, each once (R72). -/
def chainOf (body : List Byte) : Option (List Chamber) :=
  let cs := (body.take 6).filterMap (fun b => oneBased 6 b.toNat)
  if cs.length = 6 ∧ (allIx 6).all (fun c => decide (c ∈ cs)) = true then some cs else none

/-- The lock level a code names (R165). -/
def lockOf : Nat → Option Lock
  | 0 => some .open
  | 1 => some .guarded
  | 2 => some .locked
  | _ => none

/-! ## The STEP body (R183) -/

/-- A gas entry as sent: line number and flow. -/
structure RawEntry where
  line : Nat
  flow : Nat
  deriving DecidableEq, Repr

/-- n gas entries at an offset, three bytes each (R183). -/
def rawEntries (body : List Byte) (off : Nat) : Nat → List RawEntry
  | 0 => []
  | n + 1 => { line := field body off 1, flow := field body (off + 1) 2 } :: rawEntries body (off + 3) n

/-- The entry counts of a STEP body. -/
def countA (body : List Byte) : Nat := field body 5 1
def countB (body : List Byte) : Nat := field body 6 1

/-- R28 test 1: the body length is the one the two counts imply, and each count is 0 to 4. -/
def stepLengthOk (body : List Byte) : Bool :=
  decide (countA body ≤ 4) && decide (countB body ≤ 4) && decide (body.length = 53 + 3 * (countA body + countB body))

/-- The kinds that use set A, and set B (R26). -/
def usesA : Kind → Bool := Kind.isProcess
def usesB (k : Kind) : Bool := decide (k = .cycle)

/-- The entries of set A, and of set B, that the kind uses. -/
def usedA (k : Kind) (body : List Byte) : List RawEntry := if usesA k then rawEntries body 53 (countA body) else []
def usedB (k : Kind) (body : List Byte) : List RawEntry :=
  if usesB k then rawEntries body (53 + 3 * countA body) (countB body) else []

/-- The lines of raw entries. -/
def rawLines (es : List RawEntry) : List Line := es.filterMap (fun e => oneBased 12 e.line)

/-- The channel a line resolves to in a chamber (R29). -/
def channelOf (s : State) (c : Chamber) (l : Line) : Option Channel :=
  (allIx 8).find? (fun k => decide (((s.cfg.maps.look c).look k).line = some l))

/-- A line is configured (R28 test 8). -/
def configured (s : State) (l : Line) : Bool := (s.cfg.lines.look l).isSome

/-- A line resolves to a channel with a used FLOW entry (R28 test 10). -/
def flowPolled (s : State) (c : Chamber) (l : Line) : Bool :=
  match channelOf s c l with
  | none => false
  | some k => (findEntry s (.chamber c) (.flow k)).isSome

/-- R28 test 11's code for the purge line, none if it passes or no gas entry is used. -/
def purgeRefusal (s : State) (c : Chamber) (anyGas : Bool) : Option Nak :=
  if !anyGas then none
  else match (s.cfg.chambers.look c).purgeLine with
    | none => some .notConfigured
    | some l => refusal [(configured s l, .notConfigured), ((channelOf s c l).isSome, .noChannel),
        (flowPolled s c l, .notConfigured)]

/-- Two lines' classes are marked compatible (R28 test 12). -/
def linesCompatible (s : State) (l m : Line) : Bool :=
  match classOf s l, classOf s m with
  | some i, some j => compatible s i j
  | _, _ => false

/-! ## The load of a step (R29 to R34) -/

/-- Two warning sets together (R34). -/
def Warnings.or (a b : Warnings) : Warnings where
  flowClamped := a.flowClamped || b.flowClamped
  flowRaised := a.flowRaised || b.flowRaised
  pressureClamped := a.pressureClamped || b.pressureClamped
  powerClamped := a.powerClamped || b.powerClamped
  timeClamped := a.timeClamped || b.timeClamped
  toleranceClamped := a.toleranceClamped || b.toleranceClamped

/-- A gas entry is resolved, clipped and given its command and effective flow (R29, R30, R98, R99). -/
def loadEntry (s : State) (c : Chamber) (l : Line) (sent : Nat) : Option (GasEntry × Warnings) :=
  match channelOf s c l, s.cfg.lines.look l with
  | some k, some r =>
    let m := (s.cfg.maps.look c).look k
    let f := min sent Config.flowMax
    let cmd := storedCommand f r.gcf m.fs m.floor
    some ({ line := l, flow := f, channel := k, cmd := cmd.1, eff := effectiveFlow cmd.1 r.gcf m.fs },
      { Warnings.none with flowClamped := decide (Config.flowMax < sent) || cmd.2.1, flowRaised := cmd.2.2 })
  | _, _ => none

/-- The entries of a set, loaded in the order sent. -/
def loadSet (s : State) (c : Chamber) (es : List RawEntry) : List (GasEntry × Warnings) :=
  es.filterMap (fun e => (oneBased 12 e.line).bind (fun l => loadEntry s c l e.flow))

/-- The purge entry of a step with at least one gas entry (R25). -/
def loadPurge (s : State) (c : Chamber) (anyGas : Bool) : Option (GasEntry × Warnings) :=
  if anyGas then (s.cfg.chambers.look c).purgeLine.bind (fun l => loadEntry s c l (s.cfg.chambers.look c).purgeFlow) else none

/-- A value clamped to a range, and whether it changed. -/
def clampTo (lo hi n : Nat) : Nat := max lo (min hi n)

/-- The fields of a step record that are clamped for the kind, with the others as sent (R31 to R33). -/
def clampRecord (s : State) (c : Chamber) (r : StepRec) : StepRec :=
  let p := s.cfg.chambers.look c
  let noBias := (findEntry s (.chamber c) .bias).isNone
  let src := fun n => min n p.sourceMax
  let bia := fun n => if noBias then 0 else min n p.biasMax
  let prs := clampTo p.minControl p.maxControl
  match r.kind with
  | .pumpdown => { r with targetA := clampTo 1 p.crossover r.targetA }
  | .vent => r
  | .stabilize =>
    { r with
      targetA := prs r.targetA, tolerance := clampTo 1 50 r.tolerance, settleMs := clampTo 0 60000 r.settleMs,
      durationMs := clampTo 100 3600000 r.durationMs }
  | .plasma =>
    let r :=
      { r with
        targetA := prs r.targetA, tolerance := clampTo 1 50 r.tolerance, settleMs := clampTo 0 60000 r.settleMs,
        durationMs := clampTo 100 3600000 r.durationMs, sourceA := src r.sourceA, biasA := bia r.biasA }
    match r.endMode with
    | .time => r
    | .endpoint => { r with maskMs := clampTo 0 600000 r.maskMs, overetchPct := clampTo 0 200 r.overetchPct }
  | .cycle =>
    { r with
      targetA := prs r.targetA, targetB := prs r.targetB, tolerance := clampTo 1 50 r.tolerance,
      settleMs := clampTo 0 60000 r.settleMs, sourceA := src r.sourceA, sourceB := src r.sourceB, biasA := bia r.biasA,
      biasB := bia r.biasB, phaseAMs := clampTo 20 60000 r.phaseAMs, phaseBMs := clampTo 20 60000 r.phaseBMs,
      firstExtMs := clampTo 0 10000 r.firstExtMs, cycleCount := clampTo 1 65535 r.cycleCount }
  | .purge => { r with targetA := prs r.targetA, durationMs := clampTo 100 3600000 r.durationMs }

/-- The warnings the clamps raise: one for each group of fields that changed (R31 to R34). -/
def clampWarnings (sent stored : StepRec) : Warnings where
  flowClamped := false
  flowRaised := false
  pressureClamped := decide (sent.targetA ≠ stored.targetA) || decide (sent.targetB ≠ stored.targetB)
  powerClamped := decide (sent.sourceA ≠ stored.sourceA) || decide (sent.sourceB ≠ stored.sourceB)
    || decide (sent.biasA ≠ stored.biasA) || decide (sent.biasB ≠ stored.biasB)
  timeClamped := decide (sent.settleMs ≠ stored.settleMs) || decide (sent.durationMs ≠ stored.durationMs)
    || decide (sent.maskMs ≠ stored.maskMs) || decide (sent.overetchPct ≠ stored.overetchPct)
    || decide (sent.phaseAMs ≠ stored.phaseAMs) || decide (sent.phaseBMs ≠ stored.phaseBMs)
    || decide (sent.firstExtMs ≠ stored.firstExtMs) || decide (sent.cycleCount ≠ stored.cycleCount)
  toleranceClamped := decide (sent.tolerance ≠ stored.tolerance)

/-- The record as sent, with its resolved entries (R25, R29, R183). -/
def sentRecord (s : State) (c : Chamber) (k : Kind) (body : List Byte) : StepRec :=
  let a := loadSet s c (usedA k body)
  let b := loadSet s c (usedB k body)
  let p := loadPurge s c (decide (usedA k body ++ usedB k body ≠ []))
  { id := field body 1 2
    kind := k
    setA := a.map (·.1)
    setB := b.map (·.1)
    targetA := field body 7 4
    targetB := field body 11 4
    tolerance := field body 15 1
    settleMs := field body 16 4
    sourceA := field body 20 2
    sourceB := field body 22 2
    biasA := field body 24 2
    biasB := field body 26 2
    durationMs := field body 28 4
    endMode := if field body 4 1 = 1 then .endpoint else .time
    maskMs := field body 32 4
    overetchPct := field body 36 2
    phaseAMs := field body 38 4
    phaseBMs := field body 42 4
    firstExtMs := field body 46 4
    cycleCount := field body 50 2
    arcLimit := field body 52 1
    purge := p.map (·.1)
    warnings := (a.map (·.2) ++ b.map (·.2) ++ (p.map (·.2)).toList).foldl Warnings.or Warnings.none }

/-- The record as stored: clamped, with its warnings (R27, R34). -/
def storedRecord (s : State) (c : Chamber) (k : Kind) (body : List Byte) : StepRec :=
  let sent := sentRecord s c k body
  let stored := clampRecord s c sent
  { stored with warnings := sent.warnings.or (clampWarnings sent stored) }

/-- R28 tests 3 to 12 for a chamber and a kind. -/
def stepRefusal (s : State) (c : Chamber) (k : Kind) (body : List Byte) : Option Nak :=
  let raw := usedA k body ++ usedB k body
  let ls := rawLines raw
  let hasSource := (findEntry s (.chamber c) .source).isSome
  let first := refusal [
    (raw.all (fun e => within e.line 1 12), .badTarget),
    (decide (rawLines (usedA k body)).Nodup && decide (rawLines (usedB k body)).Nodup, .duplicate),
    (ls.all (configured s), .notConfigured),
    (ls.all (fun l => (channelOf s c l).isSome), .noChannel),
    (ls.all (flowPolled s c) && (!(decide (k = .plasma) || decide (k = .cycle)) || hasSource), .notConfigured)]
  match first with
  | some n => some n
  | none =>
    match purgeRefusal s c (decide (raw ≠ [])) with
    | some n => some n
    | none => refusal [(ls.all (fun l => ls.all (fun m => decide (l = m) || linesCompatible s l m)), .incompatible)]

/-- R28 test 5: the kind, and for PLASMA the end mode. -/
def stepKindOf (body : List Byte) : Option Kind :=
  match kindOf (field body 3 1) with
  | none => none
  | some k => if k = .plasma ∧ 1 < field body 4 1 then none else some k

/-- The chamber may take a STEP (R28 test 3). -/
def takesStep (q : Csq) : Bool := decide (q.state = .ready) || decide (q.state = .running) || decide (q.state = .held)

end Sys2Proof.Machine
end

