-- ==== Sys2Proof/Machine/Link.lean ====
section
/-! DEFINITION. The Supervisory Link (chapter 12): the receive assembler, the request buffer, the reply slot, the
transmitter, and how a request row takes the frame at the head of the buffer. -/

namespace Sys2Proof.Machine

/-! ## The receive assembler (R173) -/

/-- The LEN byte of the bytes collected after the start byte. -/
def asmLen (bs : List Byte) : Nat := field bs 0 1

/-- The bytes collected are a whole frame: LEN, KIND, TAG, body, CRC (R173). -/
def asmComplete (bs : List Byte) : Bool := decide (bs ≠ []) && decide (bs.length = asmLen bs + 5)

/-- The CRC of a whole frame matches (R173). -/
def crcMatches (bs : List Byte) : Bool := decide (bs.drop (asmLen bs + 3) = crcBytes (bs.take (asmLen bs + 3)))

/-- The frame a whole run of bytes carries. -/
def asmFrame (bs : List Byte) : Frame :=
  { kind := BitVec.ofNat 8 (field bs 1 1), tag := BitVec.ofNat 8 (field bs 2 1), body := (bs.drop 3).take (asmLen bs) }

/-- The assembler returns to hunting. -/
def Svl.hunt (v : Svl) : Svl := { v with assembler := none, gap := none }

/-- A whole frame is judged: appended, or discarded with link-fault set (R173). -/
def Svl.judge (bs : List Byte) (v : Svl) : Svl :=
  if crcMatches bs && decide (v.buffer.length < Config.requestBufferSize) then
    { v.hunt with buffer := v.buffer ++ [asmFrame bs] }
  else { v.hunt with linkFault := true }

/-- The assembler takes one byte (R173). -/
def Svl.takeByte (now : Nat) (b : Byte) (v : Svl) : Svl :=
  match v.assembler with
  | none => if b = 0xA5#8 then { v with assembler := some [], gap := some (now + Config.interByteGapMs) } else v
  | some bs =>
    let bs := bs ++ [b]
    if bs.length = 1 ∧ Config.maxLen < asmLen bs then { v.hunt with linkFault := true }
    else if asmComplete bs then v.judge bs
    else { v with assembler := some bs, gap := some (now + Config.interByteGapMs) }

/-- The byte would complete the frame being assembled. -/
def Svl.completes (b : Byte) (v : Svl) : Bool :=
  match v.assembler with
  | none => false
  | some bs => decide (bs ≠ []) && asmComplete (bs ++ [b])

/-! ## The transmitter (R176) -/

/-- An idle transmitter chooses the next frame: the reply, else the oldest event record, else none (R176). -/
def Svl.transmit (v : Svl) : Svl :=
  if v.tx.isSome then v
  else match v.reply with
    | some r => { v with reply := none, tx := some (replyFrame r) }
    | none => match v.events with
      | [] => v
      | e :: rest => { v with events := rest, tx := some (eventFrame e) }

/-- What ends every command: the admission queue service the command owes (R85, R90), then the transmitter's choice
(R176). -/
def finish (s : State) : State := (runService s).modSvl Svl.transmit

/-! ## Requests (R174) -/

/-- The request that is next to be handled: the head of the buffer, while the reply slot is empty (R174). -/
def nextRequest (s : State) : Option Frame := if s.svl.reply.isSome then none else s.svl.buffer.head?

/-- The frame at the head leaves the buffer. -/
def popFrame (s : State) : State := s.modSvl (fun v => { v with buffer := v.buffer.tail })

/-- The reply to a request goes into the reply slot, with the request's TAG (R174). -/
def putReply (f : Frame) (b : ReplyBody) (s : State) : State :=
  s.modSvl (fun v => { v with reply := some { tag := f.tag, body := b } })

/-- What a request's owner answers: the state after it and the reply. -/
abbrev Answer := State × ReplyBody

/-- A refusal, which leaves the state as it is (R175). -/
def refuse (n : Nak) (s : State) : Answer := (s, .nak n)

/-- An acceptance with the body of its ACK. -/
def accept (body : List Byte) (s : State) : Answer := (s, .ack body)

/-- The first test that fails refuses; a request that passes all is accepted. -/
def tested (tests : List (Bool × Nak)) (s : State) (yes : Answer) : Answer :=
  match refusal tests with
  | some n => refuse n s
  | none => yes

/-- A request of a chamber: BAD_TARGET outside 1 to 6. -/
def onChamber (body : List Byte) (s : State) (act : Chamber → Answer) : Answer :=
  match bodyChamber body with
  | none => refuse .badTarget s
  | some c => act c

/-- Handles a frame of the right kind: BAD_LENGTH, or the owner's answer; the frame leaves the buffer and the reply goes
into the reply slot (R174). -/
def handle (k : ReqKind) (act : List Byte → State → Answer) (f : Frame) (s : State) : State :=
  let s := popFrame s
  let a := if lengthFits k f.body then act f.body s else refuse .badLength s
  putReply f a.2 a.1

/-- A request row: it handles the next request if that is of its kind and, where several rows share a kind, is the row's
own; otherwise its occasion does not stand and nothing changes (notes/assumptions/2.md, 3.md). -/
def request (k : ReqKind) (mine : List Byte → Bool) (act : List Byte → State → Answer) (s : State) : State :=
  match nextRequest s with
  | none => s
  | some f => if reqKindOf f.kind = some k ∧ mine f.body = true then handle k act f s else s

/-- A row that is its kind's only one takes every frame of the kind. -/
def anyBody (_ : List Byte) : Bool := true

/-- A LINE row takes the bodies of its operation, and the malformed ones: a wrong length or an operation not defined. -/
def lineRow (op : Nat) (body : List Byte) : Bool :=
  !lengthFits .line body || decide (field body 1 1 = op) || decide (2 < field body 1 1)

/-- A PTEN row takes the bodies of its operation, and the malformed ones. -/
def ptenRow (op : Nat) (body : List Byte) : Bool :=
  !lengthFits .pten body || decide (field body 0 1 = op) || decide (1 < field body 0 1)

end Sys2Proof.Machine
end

