-- ==== Sys2Proof/Machine/Configure.lean ====
section
/-! DEFINITION. The configuration requests (chapter 11, R72, R142, R143, R162): CFGLN, CFGCX, CFGCH, CFGMAP, CFGPT, CFGFL,
CFGIQ, PTEN. Each tests in its rule's order with the configuration gate of R164 in its place, and then writes. -/

namespace Sys2Proof.Machine

open Host (Outcome)

/-! ## CFGLN (R166, R167, R77) -/

/-- Some chamber names the line as its purge line (R166 test 3). -/
def isPurgeLine (s : State) (l : Line) : Bool :=
  (allIx 6).any (fun c => decide ((s.cfg.chambers.look c).purgeLine = some l))

/-- Some chamber that is not OFFLINE has a channel bound to the line (R166 test 6). -/
def boundOnline (s : State) (l : Line) : Bool :=
  (allIx 6).any (fun c => decide ((s.ch c).state ≠ .offline) &&
    (allIx 8).any (fun k => decide (((s.cfg.maps.look c).look k).line = some l)))

/-- The line is listed for pump-out or pumping out. -/
def pumping (s : State) (l : Line) : Bool :=
  decide ((s.ln l).state = .pumpoutPending) || decide ((s.ln l).state = .pumpingOut)

/-- The ACK of CFGLN and LINE: the line and its state. -/
def lineAck (s : State) (l : Line) : List Byte := u8 (l.val + 1) ++ u8 (s.ln l).state.code

/-- The line state after an accepted CFGLN (R77). -/
def lineAfterWrite (l : Line) (ok : Bool) (s : State) : State :=
  match (s.ln l).state, ok with
  | .unconfigured, true => oweService (setLineState l .ready .config s)
  | .unconfigured, false => setLineState l .lockedOut .config s
  | .ready, false => setLineState l .lockedOut .config s
  | _, _ => s

/-- Writes a line record (R167). -/
def writeLine (l : Line) (r : LineCfg) (s : State) : State :=
  lineAfterWrite l (cabinetOk s r.cabinet) (s.modCfg (fun g => { g with lines := g.lines.put l (some r) }))

def actCfgln (b : List Byte) (s : State) : Answer :=
  match oneBased 12 (field b 0 1) with
  | none => refuse .badTarget s
  | some l => match lineCfgOf b with
    | none => refuse .badValue s
    | some r =>
      let t := writeLine l r s
      tested [(!isPurgeLine s l || decide (r.cls = 0), .badValue), (gateOpen s, .locked), (!pumping s l, .state),
        (!boundOnline s l, .inUse)] s (accept (lineAck t l) t)

/-- CFGLN. -/
def execCfgln (s : State) : Outcome State Fault Refusal := .next (finish (request .cfgln anyBody actCfgln s))

/-! ## CFGCX (R168) -/

/-- Sets the pairs {i, j} and {j, i}. -/
def writePair (i j : GasClass) (v : Bool) (s : State) : State :=
  s.modCfg (fun g =>
    let m := g.matrix.put i ((g.matrix.look i).put j v)
    { g with matrix := m.put j ((m.look j).put i v) })

def actCfgcx (b : List Byte) (s : State) : Answer :=
  match zeroBased 8 (field b 0 1), zeroBased 8 (field b 1 1) with
  | some i, some j =>
    let v := field b 2 1
    let t := writePair i j (decide (v = 0)) s
    tested [(decide (v = 0) || (decide (v = 1) && decide (i ≠ j) && decide (i ≠ 0) && decide (j ≠ 0)), .badValue),
      (gateOpen s, .locked)] s
      (accept (u8 i.val ++ u8 j.val ++ u8 (if compatible t i j then 0 else 1)) t)
  | _, _ => refuse .badTarget s

/-- CFGCX. -/
def execCfgcx (s : State) : Outcome State Fault Refusal := .next (finish (request .cfgcx anyBody actCfgcx s))

/-! ## CFGCH (R169, R170) -/

/-- A purge line whose record exists is of class 0 (R169 test 4). -/
def purgeLineOk (s : State) (p : ChamberParams) : Bool :=
  match p.purgeLine.bind (classOf s) with
  | none => true
  | some g => decide (g = 0)

/-- Running timers compared with the new record: a rough timer at or past the rough timeout and a deviation timer at or
past the flow fault time expire at once (R170, R47, R108). DESIGN CHOICE: the rough timer is compared first
(notes/assumptions/53.md). -/
def compareTimers (c : Chamber) (s : State) : State :=
  let s := if roughDue s c && (s.ch c).running then faultChamber c .roughTimeout s else s
  (allIx 8).foldl (fun s k => if deviationDue s c k then deviationExpired c k s else s) s

/-- Writes the chamber parameters (R170). -/
def writeParams (c : Chamber) (p : ChamberParams) (s : State) : State :=
  compareTimers c (s.modCfg (fun g => { g with chambers := g.chambers.put c p }))

def actCfgch (b : List Byte) (s : State) : Answer :=
  onChamber b s (fun c =>
    tested [(paramsInRange b, .badValue), (paramsOrdered (paramsOf b), .badValue), (purgeLineOk s (paramsOf b), .badValue),
      (gateOpen s, .locked)] s (accept [] (writeParams c (paramsOf b) s)))

/-- CFGCH. -/
def execCfgch (s : State) : Outcome State Fault Refusal := .next (finish (request .cfgch anyBody actCfgch s))

/-! ## CFGMAP (R171) -/

/-- No other channel of the chamber is bound to the entry's line (R171 test 5). -/
def mapUnique (s : State) (c : Chamber) (k : Channel) (m : MapEntry) : Bool :=
  m.line.isNone || (allIx 8).all (fun j => decide (j = k) || decide (((s.cfg.maps.look c).look j).line ≠ m.line))

/-- Writes a channel map entry (R171, R104). -/
def writeMap (c : Chamber) (k : Channel) (m : MapEntry) (s : State) : State :=
  (s.modCfg (fun g => { g with maps := g.maps.put c ((g.maps.look c).put k m) })).modChan c k
    (fun x => { x with lastTime := none, deviation := none })

def actCfgmap (b : List Byte) (s : State) : Answer :=
  match bodyChamber b, oneBased 8 (field b 1 1) with
  | some c, some k =>
    let m := mapOf b
    tested [(within (field b 2 1) 0 12, .badTarget),
      (within m.fs 10 20000 && within m.floor 0 500 && within m.ramp 1 10000, .badValue), (gateOpen s, .locked),
      (decide ((s.ch c).state = .offline), .state), (mapUnique s c k m, .duplicate)] s (accept [] (writeMap c k m s))
  | _, _ => refuse .badTarget s

/-- CFGMAP. -/
def execCfgmap (s : State) : Outcome State Fault Refusal := .next (finish (request .cfgmap anyBody actCfgmap s))

/-! ## CFGPT (R142) -/

/-- No other used entry has the same owner and role (R142 test 5). -/
def pollUnique (s : State) (e : EntryIx) (p : PollCfg) : Bool :=
  !p.used || (allIx 96).all (fun x => decide (x = e) || !(s.cfg.poll.look x).used
    || decide ((s.cfg.poll.look x).owner ≠ p.owner) || decide ((s.cfg.poll.look x).role ≠ p.role))

/-- The entry leaves the urgent queue and the frame list; its transaction in flight is discarded (R142). -/
def Ilc.forget (e : EntryIx) (i : Ilc) : Ilc :=
  { i with
    urgent := i.urgent.filter (fun x => x ≠ e)
    frameRest := i.frameRest.filter (fun x => x ≠ e)
    inFlight := i.inFlight.map (fun t => if t.entry = e then { t with discarded := true } else t) }

/-- The schedule and instrument state of a rewritten entry (R142). -/
def PollDyn.rewritten (e : EntryIx) (p : PollCfg) (enabled : Bool) (x : PollDyn) : PollDyn where
  countdown := if p.used && enabled then firstCountdown e p.period else x.countdown
  due := false
  late := 0
  state := .unknown
  misses := 0

/-- Writes a poll table entry; the owner and role it held are told of UNKNOWN (R142, R151, notes/assumptions/21.md). -/
def writePoll (e : EntryIx) (p : PollCfg) (s : State) : State :=
  let old := s.cfg.poll.look e
  let before := (s.pollDyn e).state
  let s := s.modCfg (fun g => { g with poll := g.poll.put e p })
  let s := (s.modIlc (Ilc.forget e)).modPoll e (PollDyn.rewritten e p s.cfg.enabled)
  if old.used then ownerReport old before .unknown (postInstr e old .unknown .config s) else s

def actCfgpt (b : List Byte) (s : State) : Answer :=
  match zeroBased 96 (field b 0 1) with
  | none => refuse .badTarget s
  | some e =>
    let p := pollOf b
    tested [(pollInRange p, .badValue), (gateOpen s, .locked), (allOffline s, .state), (pollUnique s e p, .duplicate)] s
      (accept [] (writePoll e p s))

/-- CFGPT. -/
def execCfgpt (s : State) : Outcome State Fault Refusal := .next (finish (request .cfgpt anyBody actCfgpt s))

/-! ## CFGFL (R72) -/

/-- Writes the four foreline settings. -/
def writeForeline (chain : List Chamber) (limit resume travel : Nat) (s : State) : State :=
  s.modCfg (fun g => { g with chain := chain, backingLimit := limit, resumeLevel := resume, pumpTravel := travel })

def actCfgfl (b : List Byte) (s : State) : Answer :=
  match chainOf b with
  | none => refuse .badValue s
  | some chain =>
    let limit := field b 6 4
    let resume := field b 10 4
    let travel := field b 14 2
    tested [(within limit 10000 10000000 && within resume 1000 9999999 && decide (resume < limit) && within travel 20 2000,
      .badValue), (gateOpen s, .locked)] s (accept [] (writeForeline chain limit resume travel s))

/-- CFGFL. -/
def execCfgfl (s : State) : Outcome State Fault Refusal := .next (finish (request .cfgfl anyBody actCfgfl s))

/-! ## CFGIQ (R162) -/

/-- Writes the qualification time of each of the inputs. -/
def writeQual (is : List Input) (ms : Nat) (s : State) : State :=
  s.modCfg (fun g => { g with qualMs := is.foldl (fun t i => t.put (inputIx i) ms) g.qualMs })

def actCfgiq (b : List Byte) (s : State) : Answer :=
  let is := inputsOf (field b 0 1) (field b 1 1)
  let ms := field b 2 4
  tested [(decide (is ≠ []), .badTarget), (within ms 1 15, .badValue), (gateOpen s, .locked)] s
    (accept [] (writeQual is ms s))

/-- CFGIQ. -/
def execCfgiq (s : State) : Outcome State Fault Refusal := .next (finish (request .cfgiq anyBody actCfgiq s))

/-! ## PTEN (R143) -/

/-- The table is enabled: the schedule is loaded afresh and the first frame begins (R143). DESIGN CHOICE: the entries are taken
in ascending number, each with its INSTR event and its owner's report before the next (notes/assumptions/41.md). -/
def enablePolling (budget window : Nat) (s : State) : State :=
  let s := s.modCfg (fun g => { g with enabled := true, budget := budget, window := window })
  let s := (allIx 96).foldl (fun s e =>
    toUnknown e .enable (s.modPoll e (PollDyn.fresh e (s.cfg.poll.look e)))) s
  beginFrame (s.modIlc (fun i => { i with urgent := [] }))

def actPtenEnable (b : List Byte) (s : State) : Answer :=
  let budget := field b 1 1
  let window := field b 2 2
  tested [(decide (field b 0 1 = 0) && within budget 8 64 && within window 100 2000, .badValue), (gateOpen s, .locked),
    (!s.cfg.enabled, .state)] s (accept [] (enablePolling budget window s))

/-- PTEN with operation ENABLE. -/
def execPtenEnable (s : State) : Outcome State Fault Refusal :=
  .next (finish (request .pten (ptenRow 0) actPtenEnable s))

/-- The table is disabled: the frame in progress ends, nothing in flight is judged, every state becomes UNKNOWN (R143). DESIGN
CHOICE: the entries are taken in ascending number, each with its INSTR event and its owner's report before the next
(notes/assumptions/41.md). -/
def disablePolling (s : State) : State :=
  let s := s.modCfg (fun g => { g with enabled := false })
  let s := s.modIlc (fun i => { i with urgent := [], frameRest := [], inFlight := none })
  (allIx 96).foldl (fun s e => toUnknown e .disable (s.modPoll e (fun x => { x with due := false }))) s

def actPtenDisable (b : List Byte) (s : State) : Answer :=
  tested [(decide (field b 0 1 = 1), .badValue), (gateOpen s, .locked), (s.cfg.enabled && allOffline s, .state)] s
    (accept [] (disablePolling s))

/-- PTEN with operation DISABLE. -/
def execPtenDisable (s : State) : Outcome State Fault Refusal :=
  .next (finish (request .pten (ptenRow 1) actPtenDisable s))

end Sys2Proof.Machine
end

