-- ==== Sys2Proof/Machine/Events.lean ====
section
/-! DEFINITION. The commands that no host sends: input changes and notices (chapter 10), arcs, valve travels (R20, R58),
the timer expiries of the chambers (chapters 1, 3, 5 to 8), the pump-out and its messages (chapter 4, R81), the Instrument
Link (chapter 9). Each acts only where its occasion stands: its timer runs and has run out, its message or notice waits, its
phase is the chamber's (notes/assumptions/2.md). -/

namespace Sys2Proof.Machine

open Host (Outcome)

/-! ## Inputs (R156 to R160, R128) -/

/-- RAW_INPUT_CHANGE: a pin takes a level. A rising ARC level is an edge and a raw EMO assertion is R157's. -/
def execRawInputChange (p : Pin) (level : Bool) (s : State) : Outcome State Fault Refusal :=
  .next (finish (match p, level with
    | .qualified i, l => rawChange i l s
    | .arc c, false => s.modIiu (fun u => { u with arcRaw := u.arcRaw.put c false })
    | .arc c, true => if s.iiu.arcRaw.look c then s else arcRise c s))

/-- EMO_ASSERTION (R157). -/
def execEmoAssertion (s : State) : Outcome State Fault Refusal :=
  .next (finish (if (s.inp .emo).raw then s else assertEmo s))

/-- QUALIFICATION_EXPIRY (R156, R158). -/
def execQualificationExpiry (i : Input) (s : State) : Outcome State Fault Refusal :=
  .next (finish (if timerDue s (s.inp i).timer then qualifyExpired i s else s))

/-- The first waiting notice of an owner about an input. -/
def waitingNotice (o : NoticeOwner) (i : Input) (s : State) : Option Notice :=
  s.iiu.notices.find? (fun n => decide (n.owner = o) && decide (n.input = i))

/-- QUALIFIED_CHANGE_NOTICE: the owner takes the notice (R159). -/
def execQualifiedChangeNotice (o : NoticeOwner) (i : Input) (s : State) : Outcome State Fault Refusal :=
  .next (finish (match waitingNotice o i s with
    | none => s
    | some n => takeNotice n (s.modIiu (fun u => { u with notices := u.notices.erase n }))))

/-- ARC_EDGE: a rising edge (R128, R160). -/
def execArcEdge (c : Chamber) (s : State) : Outcome State Fault Refusal := .next (finish (arcRise c s))

/-- ARC_MERGE_EXPIRY (R128). -/
def execArcMergeExpiry (c : Chamber) (s : State) : Outcome State Fault Refusal :=
  .next (finish (if timerDue s (s.iiu.merge.look c) then
    s.modIiu (fun u => { u with merge := u.merge.put c none }) else s))

/-! ## Valve travels (R20, R58) -/

/-- VALVE_TRAVEL_EXPIRY: the travel ends and the phases that wait for it go on. -/
def execValveTravelExpiry (c : Chamber) (v : ChamberValve) (s : State) : Outcome State Fault Refusal :=
  .next (finish (if ((s.ch c).valve v).travelDue s then
    afterTravel c (s.modCh c (fun q => q.setValve v (q.valve v).expire)) else s))

/-- LINE_PUMP_VALVE_TRAVEL_EXPIRY: the travel ends, and HANDOVER with it if it was the last (R58). -/
def execLinePumpValveTravelExpiry (l : Line) (s : State) : Outcome State Fault Refusal :=
  .next (finish (if (s.fla.pumps.look l).travelDue s then handoverCheck (modPump l Valve.expire s) else s))

/-! ## Timers of the chambers -/

/-- A timer of the executing step has run out while the chamber is RUNNING. -/
def stepTimerDue (s : State) (c : Chamber) (t : StepCtx → Timer) : Bool :=
  (s.ch c).running && timerDue s ((s.ch c).exec.bind t)

/-- HOLD_EXPIRY: the chamber enters READY (R9). -/
def execHoldExpiry (c : Chamber) (s : State) : Outcome State Fault Refusal :=
  .next (finish (if decide ((s.ch c).state = .held) && timerDue s (s.ch c).hold then enterReady c s else s))

/-- ROUGH_TIMER_EXPIRY: ROUGH_TIMEOUT (R47). -/
def execRoughTimerExpiry (c : Chamber) (s : State) : Outcome State Fault Refusal :=
  .next (finish (if (s.ch c).running && roughDue s c then faultChamber c .roughTimeout s else s))

/-- BASE_TIMER_EXPIRY: BASE_TIMEOUT in HIGH_VAC (R53). -/
def execBaseTimerExpiry (c : Chamber) (s : State) : Outcome State Fault Refusal :=
  .next (finish (if (s.ch c).inPhase .highVac && stepTimerDue s c (·.baseTimer) then faultChamber c .baseTimeout s else s))

/-- VENT_TIMER_EXPIRY: VENT_TIMEOUT in VENTING (R57). -/
def execVentTimerExpiry (c : Chamber) (s : State) : Outcome State Fault Refusal :=
  .next (finish (if (s.ch c).inPhase .venting && stepTimerDue s c (·.ventTimer) then faultChamber c .ventTimeout s else s))

/-- The admission wait of a step whose admission timer has expired is the admit limit the timer was loaded with (R91). -/
def recordAdmitLimit (c : Chamber) (s : State) : State :=
  let d := (s.ch c).admitTimer
  s.modExec c (fun e => { e with admitWait := d.bind (fun d => e.admitAt.map (fun t => d - t)) })

/-- ADMIT_TIMER_EXPIRY: ADMIT_TIMEOUT in ADMIT (R91). -/
def execAdmitTimerExpiry (c : Chamber) (s : State) : Outcome State Fault Refusal :=
  .next (finish (if (s.ch c).inPhase .admission && timerDue s (s.ch c).admitTimer then
    faultChamber c .admitTimeout (recordAdmitLimit c s) else s))

/-- The holdings after a manifold purge: the purge line's entry drops to the step's own wanted flow, or is removed (R94). -/
def dropPurge (r : StepRec) (hs : List Holding) : List Holding :=
  match r.purge with
  | none => hs
  | some g => match r.wanted g.line with
    | none => hs.filter (fun h => h.line ≠ g.line)
    | some n => hs.map (fun h => if h.line = g.line then { h with flow := n } else h)

/-- MANIFOLD_PURGE ends (R94, R114). -/
def endPurge (c : Chamber) (s : State) : State :=
  match (s.ch c).exec with
  | none => s
  | some e =>
    let hs := dropPurge e.record (s.ch c).holdings
    let low := lowers (s.ch c).holdings hs
    let s := s.modCh c (fun q => { q with residue := cleanResidue, holdings := hs })
    enterWork c e.record (if low then oweService s else s)

/-- PURGE_TIMER_EXPIRY (R114). -/
def execPurgeTimerExpiry (c : Chamber) (s : State) : Outcome State Fault Refusal :=
  .next (finish (if (s.ch c).inPhase .manifoldPurge && stepTimerDue s c (·.purgeTimer) then endPurge c s else s))

/-- SETTLE_TIMER_EXPIRY: the chamber has settled (R117). -/
def execSettleTimerExpiry (c : Chamber) (s : State) : Outcome State Fault Refusal :=
  .next (finish (if (s.ch c).inPhase .settle && stepTimerDue s c (·.settleTimer) then settled c s else s))

/-- SETTLE_LIMIT_EXPIRY: SETTLE_TIMEOUT (R118). -/
def execSettleLimitExpiry (c : Chamber) (s : State) : Outcome State Fault Refusal :=
  .next (finish (if (s.ch c).inPhase .settle && stepTimerDue s c (·.settleLimit) then faultChamber c .settleTimeout s else s))

/-- What the duration timer's expiry does in a phase (R119, R124, R126, R129). -/
def durationEnd (c : Chamber) (s : State) : State :=
  match (s.ch c).phase with
  | .steady => endOk c s
  | .purging => endOk c s
  | .etch =>
    if (s.ch c).exec.any (fun e => decide (e.record.endMode = .endpoint)) then faultChamber c .noEndpoint s else endOk c s
  | _ => s

/-- DURATION_EXPIRY (R119, R124, R126, R129). -/
def execDurationExpiry (c : Chamber) (s : State) : Outcome State Fault Refusal :=
  .next (finish (if stepTimerDue s c (·.duration) then durationEnd c s else s))

/-- EXCURSION_EXPIRY: PRESSURE_EXCURSION (R120). -/
def execExcursionExpiry (c : Chamber) (s : State) : Outcome State Fault Refusal :=
  .next (finish (if stepTimerDue s c (·.excursion) then faultChamber c .pressureExcursion s else s))

/-- STRIKE_TIMER_EXPIRY: STRIKE_FAIL (R123). -/
def execStrikeTimerExpiry (c : Chamber) (s : State) : Outcome State Fault Refusal :=
  .next (finish (if (s.ch c).inPhase .strike && stepTimerDue s c (·.strikeTimer) then faultChamber c .strikeFail s else s))

/-- MASK_EXPIRY (R125). -/
def execMaskExpiry (c : Chamber) (s : State) : Outcome State Fault Refusal :=
  .next (finish (if (s.ch c).inPhase .etch && stepTimerDue s c (·.maskTimer) then maskExpired c s else s))

/-- OVERETCH_EXPIRY: the step ends OK (R127). -/
def execOveretchExpiry (c : Chamber) (s : State) : Outcome State Fault Refusal :=
  .next (finish (if (s.ch c).inPhase .overetch && stepTimerDue s c (·.overetchTimer) then endOk c s else s))

/-- CYCLE_PHASE_EXPIRY (R134, R136). -/
def execCyclePhaseExpiry (c : Chamber) (s : State) : Outcome State Fault Refusal :=
  .next (finish (if ((s.ch c).inPhase .cyclingA || (s.ch c).inPhase .cyclingB) && stepTimerDue s c (·.cycleTimer) then
    cyclePhaseEnd c s else s))

/-- DEVIATION_EXPIRY (R108). -/
def execDeviationExpiry (c : Chamber) (k : Channel) (s : State) : Outcome State Fault Refusal :=
  .next (finish (if deviationDue s c k then deviationExpired c k s else s))

/-! ## Pump-outs (R65, R68, R81) -/

/-- PUMPOUT_COMPLETION (R68). -/
def execPumpoutCompletion (s : State) : Outcome State Fault Refusal :=
  .next (finish (match completedLine s with
    | none => s
    | some l => completePumpout l s))

/-- A waiting message of the GAT to the FLA is taken off its channel. -/
def takeOffFla (l : Line) (s : State) : State := s.modGat (fun g => { g with toFla := dropFirst l g.toFla })

/-- A listing that stood behind a removal is taken at once (notes/assumptions/9.md). -/
def listingBehind (l : Line) (s : State) : State :=
  if firstMsg l s.gat.toFla = some .listing then takeListing l (takeOffFla l s) else s

/-- REMOVAL_MESSAGE: the FLA takes the removal (R65). -/
def execRemovalMessage (l : Line) (s : State) : Outcome State Fault Refusal :=
  .next (finish (if firstMsg l s.gat.toFla = some .removal then listingBehind l (takeRemoval l (takeOffFla l s)) else s))

/-- The GAT takes the first waiting message about a line if it is the one named (R81). -/
def takeMsg (m : PumpMsg) (l : Line) (s : State) : State :=
  if firstMsg l s.fla.toGat = some m then takePumpMsg m l (s.modFla (fun a => { a with toGat := dropFirst l a.toGat })) else s

/-- BEGUN_MESSAGE (R81). -/
def execBegunMessage (l : Line) (s : State) : Outcome State Fault Refusal := .next (finish (takeMsg .begun l s))

/-- STOPPED_MESSAGE (R81). -/
def execStoppedMessage (l : Line) (s : State) : Outcome State Fault Refusal := .next (finish (takeMsg .stopped l s))

/-- COMPLETE_MESSAGE (R81). -/
def execCompleteMessage (l : Line) (s : State) : Outcome State Fault Refusal := .next (finish (takeMsg .complete l s))

/-! ## The Instrument Link (R145, R146) -/

/-- INSTRUMENT_FRAME_BEGIN (R146). -/
def execInstrumentFrameBegin (s : State) : Outcome State Fault Refusal :=
  .next (finish (if frameMayBegin s then beginFrame s else s))

/-- INSTRUMENT_REPLY: a complete reply of the transaction in flight is judged and routed, the service it owes is run, and the
next transaction is built. The bytes of another transaction's reply, whose window has ended, are discarded; a reply of a discarded
transaction is not judged: that transaction ends at its window (R142, R144, R145). DESIGN CHOICE: the reply names its transaction by
the model's number (notes/assumptions/50.md). DEDUCED: a reply that fails its judgement ends the
transaction at once, and only a miss by the window's expiry takes the full window (notes/assumptions/46.md). -/
def execInstrumentReply (reply : BusReply) (s : State) : Outcome State Fault Refusal :=
  .next (finish (match s.ilc.awaits reply.txn with
    | none => s
    | some t => if t.discarded then s else endTxn (runService (takeReply t reply.bytes s))))

/-- RESPONSE_WINDOW_EXPIRY: a miss, or the end of a discarded transaction (R145). The window is that of the transaction in flight. -/
def execResponseWindowExpiry (s : State) : Outcome State Fault Refusal :=
  .next (finish (match s.ilc.inFlight with
    | none => s
    | some t => endTxn (if t.discarded then s else runService (missReply t.entry s))))

end Sys2Proof.Machine
end

