-- ==== Sys2Proof/Machine/Requests.lean ====
section
/-! DEFINITION. The chamber requests (chapters 1 to 3): ONLN, OFFLN, STEP, ABRT, RSUS, RRES, CLRF, RPT; and the line
requests (chapters 5 and 6): LINE PUMPOUT, LOCKOUT and UNLOCK, TOTL. -/

namespace Sys2Proof.Machine

open Host (Outcome)

/-! ## ONLN, OFFLN (R4, R5) -/

/-- The chamber comes online (R4, R104). -/
def bringOnline (c : Chamber) (s : State) : State :=
  let s := s.modCh c (fun q => { q with state := .ready, phase := .none, vac := .unknown, cause := none })
  let s := (allIx 8).foldl (fun s k => s.modChan c k (fun x => { x with lastTime := none })) s
  postChstate c s

def actOnln (b : List Byte) (s : State) : Answer :=
  onChamber b s (fun c =>
    tested [(decide ((s.ch c).state = .offline), .state),
      (s.cfg.enabled && !emoAsserted s && !anyFailed s c, .state),
      ((findEntry s (.chamber c) .gaugeWide).isSome && (findEntry s (.chamber c) .throttle).isSome, .notConfigured)] s
      (accept [] (bringOnline c s)))

/-- ONLN. -/
def execOnln (s : State) : Outcome State Fault Refusal := .next (finish (request .onln anyBody actOnln s))

/-- The chamber goes offline (R5, R100, R107, R112). -/
def takeOffline (c : Chamber) (s : State) : State :=
  let s := closeValve c .vent (closeValve c .gate (closeRough c s))
  let s := setThrottle c .open (stopRf c (clearDeviations c (zeroCurrents c (zeroTargets c s))))
  postChstate c (s.modCh c (fun q => { q with state := .offline, phase := .none, vac := .unknown, cause := none }))

def actOffln (b : List Byte) (s : State) : Answer :=
  onChamber b s (fun c =>
    tested [(decide ((s.ch c).state = .ready) || decide ((s.ch c).state = .faulted), .state)] s
      (accept [] (takeOffline c s)))

/-- OFFLN. -/
def execOffln (s : State) : Outcome State Fault Refusal := .next (finish (request .offln anyBody actOffln s))

/-! ## STEP (R27, R28) -/

/-- An accepted STEP: the record is placed, the load pointer moves; in READY and HELD the step starts at once (R27). -/
def loadStep (c : Chamber) (r : StepRec) (s : State) : State :=
  let running := (s.ch c).running
  let s := s.modCh c (fun q => { q.setSlot q.loadPtr (some r) with loadPtr := q.loadPtr.other })
  if running then s else startStep c s

/-- STEP from test 5 of R28 on. -/
def judgeStep (c : Chamber) (b : List Byte) (s : State) : Answer :=
  match stepKindOf b with
  | none => refuse .badValue s
  | some k => match stepRefusal s c k b with
    | some n => refuse n s
    | none =>
      let r := storedRecord s c k b
      accept (u16 r.id ++ u8 (s.ch c).loadPtr.code ++ u8 r.warnings.bits) (loadStep c r s)

def actStep (b : List Byte) (s : State) : Answer :=
  if !stepLengthOk b then refuse .badLength s
  else onChamber b s (fun c =>
    tested [(takesStep (s.ch c), .state), (((s.ch c).slot (s.ch c).loadPtr).isNone, .slotsFull)] s (judgeStep c b s))

/-- STEP. -/
def execStep (s : State) : Outcome State Fault Refusal := .next (finish (request .step anyBody actStep s))

/-! ## ABRT (R12) -/

def actAbrt (b : List Byte) (s : State) : Answer :=
  onChamber b s (fun c =>
    match (s.ch c).state, (s.ch c).exec with
    | .running, some e => accept (u8 1 ++ u16 e.record.id) (abortStep c s)
    | .held, _ => accept (u8 0 ++ u16 0) (enterReady c s)
    | _, _ => refuse .state s)

/-- ABRT. -/
def execAbrt (s : State) : Outcome State Fault Refusal := .next (finish (request .abrt anyBody actAbrt s))

/-! ## RSUS, RRES (R49, R50) -/

/-- The phases RSUS is accepted in (R49). -/
def Phase.suspendable : Phase → Bool
  | .waitForeline => true
  | .roughSoft => true
  | .roughFast => true
  | .roughPaused => true
  | _ => false

/-- The chamber's roughing is suspended: the rough valves are commanded closed, and the chamber withdraws and releases. The
rough timer runs while a rough valve still counts open, also where the suspension cuts short a wait that stopped it (R47,
R49). -/
def suspendRoughing (c : Chamber) (s : State) : State :=
  let s := closeRough c (s.modExec c (fun e => { e with paused := none }))
  let s := if (s.ch c).roughOpen then startRoughTimer c s else s
  leaveForeline c (enterPhase c .roughSuspended s)

def actRsus (b : List Byte) (s : State) : Answer :=
  onChamber b s (fun c =>
    match (s.ch c).exec with
    | none => refuse .state s
    | some e =>
      if (s.ch c).running && (s.ch c).phase.suspendable then accept (u16 e.record.id) (suspendRoughing c s)
      else refuse .state s)

/-- RSUS. -/
def execRsus (s : State) : Outcome State Fault Refusal := .next (finish (request .rsus anyBody actRsus s))

/-- The roughing entry of RRES (R43, R50). -/
def resumeRoughing (c : Chamber) (s : State) : State :=
  if atCrossover s c then enterCrossover c s else requestForeline c s

def actRres (b : List Byte) (s : State) : Answer :=
  onChamber b s (fun c =>
    match (s.ch c).exec with
    | none => refuse .state s
    | some e =>
      if (s.ch c).inPhase .roughSuspended then accept (u16 e.record.id) (resumeRoughing c s) else refuse .state s)

/-- RRES. -/
def execRres (s : State) : Outcome State Fault Refusal := .next (finish (request .rres anyBody actRres s))

/-! ## CLRF (R17) -/

/-- The conditions of R17 besides FAULTED. -/
def mayClear (s : State) (c : Chamber) : Bool :=
  !emoAsserted s && foreOk s && exhOk s
    && (lidClosed s c || !(decide ((s.ch c).vac = .roughed) || decide ((s.ch c).vac = .highvac)))
    && allInstrumentsOk s c

/-- The fault is cleared (R17). -/
def clearFault (c : Chamber) (s : State) : State :=
  postChstate c (s.modCh c (fun q => { q with state := .ready, phase := .none, cause := none }))

def actClrf (b : List Byte) (s : State) : Answer :=
  onChamber b s (fun c =>
    tested [(decide ((s.ch c).state = .faulted), .state), (mayClear s c, .state)] s (accept [] (clearFault c s)))

/-- CLRF. -/
def execClrf (s : State) : Outcome State Fault Refusal := .next (finish (request .clrf anyBody actClrf s))

/-! ## RPT (R40) -/

def actRpt (b : List Byte) (s : State) : Answer :=
  onChamber b s (fun c =>
    match (s.ch c).reports with
    | [] => refuse .queueEmpty s
    | r :: rest => accept (reportBody c r) (s.modCh c (fun q => { q with reports := rest })))

/-- RPT. -/
def execRpt (s : State) : Outcome State Fault Refusal := .next (finish (request .rpt anyBody actRpt s))

/-! ## LINE (R78 to R80) -/

/-- The CAB_OK of a line's cabinet is qualified true (R78, R80). -/
def lineCabinetOk (s : State) (l : Line) : Bool :=
  match s.cfg.lines.look l with
  | none => false
  | some r => cabinetOk s r.cabinet

/-- The ACK of LINE: the line and its state. -/
def lineReply (s : State) (l : Line) : List Byte := u8 (l.val + 1) ++ u8 (s.ln l).state.code

/-- The three tests every LINE makes; op is the row's operation (R78). -/
def onLine (op : Nat) (b : List Byte) (s : State) (act : Line → Answer) : Answer :=
  match oneBased 12 (field b 0 1) with
  | none => refuse .badTarget s
  | some l => tested [(decide (field b 1 1 = op), .badValue), (decide ((s.ln l).state ≠ .unconfigured), .notConfigured)] s (act l)

/-- The GAT lists the line with the FLA. The FLA takes a listing at once unless an earlier message about the line waits
before it; the GAT takes what the FLA answers in the same event (R65, R78, notes/assumptions/9.md). -/
def listLine (l : Line) (s : State) : State :=
  if (firstMsg l s.gat.toFla).isSome then sendFla .listing l s else takeAllPumpMsgs l (takeListing l s)

/-- PUMPOUT's refusal by line state (R78). -/
def pumpoutRefusal (s : State) (l : Line) : Option Nak :=
  match (s.ln l).state with
  | .ready => if allocated s l = 0 then none else some .inUse
  | .lockedOut => if lineCabinetOk s l then none else some .state
  | _ => some .state

def actLinePumpout (b : List Byte) (s : State) : Answer :=
  onLine 0 b s (fun l =>
    match pumpoutRefusal s l with
    | some n => refuse n s
    | none =>
      let t := listLine l (setLineState l .pumpoutPending .pumpout s)
      accept (lineReply t l) t)

/-- LINE with operation PUMPOUT (R78). -/
def execLinePumpout (s : State) : Outcome State Fault Refusal :=
  .next (finish (request .line (lineRow 0) actLinePumpout s))

def actLineLockout (b : List Byte) (s : State) : Answer :=
  onLine 1 b s (fun l =>
    let t := lockOut l .lockout s
    tested [(decide ((s.ln l).state ≠ .lockedOut), .state)] s (accept (lineReply t l) t))

/-- LINE with operation LOCKOUT (R79). -/
def execLineLockout (s : State) : Outcome State Fault Refusal :=
  .next (finish (request .line (lineRow 1) actLineLockout s))

def actLineUnlock (b : List Byte) (s : State) : Answer :=
  onLine 2 b s (fun l =>
    let t := oweService (setLineState l .ready .unlock s)
    tested [(decide ((s.ln l).state = .lockedOut) && lineCabinetOk s l, .state)] s (accept (lineReply t l) t))

/-- LINE with operation UNLOCK (R80). -/
def execLineUnlock (s : State) : Outcome State Fault Refusal :=
  .next (finish (request .line (lineRow 2) actLineUnlock s))

/-! ## TOTL (R109) -/

/-- The lines a TOTL names: all for 0. -/
def totlLines (n : Nat) : Option (List Line) := if n = 0 then some (allIx 12) else (oneBased 12 n).map (fun l => [l])

def actTotl (b : List Byte) (s : State) : Answer :=
  match totlLines (field b 0 1) with
  | none => refuse .badTarget s
  | some ls => accept (u32 (timeTag s) ++ ls.flatMap (totalBytes s)) s

/-- TOTL. -/
def execTotl (s : State) : Outcome State Fault Refusal := .next (finish (request .totl anyBody actTotl s))

end Sys2Proof.Machine
end

