-- ==== Sys2Proof/Machine/Supervisory.lean ====
section
/-! DEFINITION. The commands of the Supervisory Link: bytes and frames received, the transmitter's end of frame, the
requests the SVL owns (IDENT, STAT, RDCFG, CFGLK, EVMSK, MARK), and the two resets. -/

namespace Sys2Proof.Machine

open Host (Outcome)

/-! ## Resets -/

/-- The raw levels of the qualified inputs. -/
def rawPins (s : State) : Table Bool 26 :=
  (allIx 26).foldl (fun (t : Table Bool 26) i => t.put i (s.iiu.inputs.look i).raw) (Vector.replicate 26 false)

/-- FULL_RESET: every block takes its full-reset values (R23, R73, R96, R110, R153, R163, R182); the pins are as they are,
and a raw EMO assertion qualifies at once (R163, R157). The numbers of transactions go on, so that a reply from before the reset names
none after it (notes/assumptions/50.md). -/
def execFullReset (s : State) : Outcome State Fault Refusal :=
  let pins := rawPins s
  let s' := (State.resetWith pins s.iiu.arcRaw s.pending).modIlc (fun i => { i with built := s.ilc.built })
  .next (finish (if pins.look (inputIx .emo) then assertEmo s' else s'))

/-- A CSQ at a soft reset (R24, R112). -/
def Csq.softReset (now : Nat) (p : ChamberParams) (q : Csq) : Csq :=
  { Csq.reset with
    gate := q.gate.commandClose now p.gateTravel
    roughSoft := q.roughSoft.commandClose now p.roughTravel
    roughFast := q.roughFast.commandClose now p.roughTravel
    vent := q.vent.commandClose now p.ventTravel }

/-- The FCU at a soft reset (R111). -/
def resetChannels (s : State) : State := { s with fcu := Vector.replicate 6 (Vector.replicate 8 ChanCtx.reset) }

/-- The GAT takes the messages the FLA has sent, without an event (notes/assumptions/12.md), and then its soft reset: the
queue is emptied and a line in PUMPING_OUT enters PUMPOUT_PENDING (R97). -/
def LineDyn.softReset (msgs : List PumpMsg) (x : LineDyn) : LineDyn :=
  let st := msgs.foldl (fun st m => match m, st with
    | .begun, .pumpoutPending => .pumpingOut
    | .stopped, .pumpingOut => .pumpoutPending
    | .complete, .pumpingOut => .ready
    | _, st => st) x.state
  { x with state := if st = .pumpingOut then .pumpoutPending else st }

/-- The GAT at a soft reset (R97). -/
def resetGat (s : State) : State :=
  let msgs := s.fla.toGat
  let s := (allIx 12).foldl (fun s l =>
    s.modLine l (LineDyn.softReset ((msgs.filter (fun m => m.2 = l)).map (·.1)))) s
  (s.modGat (fun g => { g with queue := [], serviceDue := false })).modFla (fun a => { a with toGat := [] })

/-- A poll entry at a soft reset (R154). -/
def PollDyn.softReset (e : EntryIx) (p : PollCfg) (enabled : Bool) (x : PollDyn) : PollDyn :=
  if p.used then
    let x := { x with state := .unknown, misses := 0 }
    if enabled then x.fresh e p else x
  else x

/-- The ILC at a soft reset; with the table enabled a new frame begins (R154). -/
def resetIlc (s : State) : State :=
  let s := (allIx 96).foldl (fun s e => s.modPoll e (PollDyn.softReset e (s.cfg.poll.look e) s.cfg.enabled)) s
  let s := s.modIlc (fun i => { i with urgent := [], frameRest := [], inFlight := none })
  if s.cfg.enabled then beginFrame s else s

/-- The FLA at a soft reset: HANDOVER while a valve into the foreline counts open, else the decision at once, which posts
FORELINE if the foreline enters a state (R74). -/
def resetFla (s : State) : State :=
  let s := s.modFla (fun a =>
    { a with
      holder := none
      waiting := Vector.replicate 6 false
      list := a.list.map (fun p => { p with acc := 0 })
      progress := none
      pause := false
      pressure := none
      pumps := (allIx 12).foldl (fun (t : Table Valve 12) l => t.put l ((a.pumps.look l).commandClose s.now s.cfg.pumpTravel)) a.pumps })
  if forelineValveOpen s then s.modFla (fun a => { a with state := .handover }) else grantDecision s

/-- The soft reset, in R181's order after the ACK: the frames behind RSET, the event queue and the flags, the blocks. -/
def softReset (s : State) : State :=
  let s := s.modSvl (fun v => { v with buffer := [], events := [], linkFault := false, eventsLost := false })
  let s := (allIx 6).foldl (fun s c => s.modCh c (Csq.softReset s.now (s.cfg.chambers.look c))) s
  resetFla (resetIlc (resetGat (resetChannels s)))

/-- RSET (R181): accepted always. -/
def actRset (_ : List Byte) (s : State) : Answer := accept [] (softReset s)

def execRset (s : State) : Outcome State Fault Refusal := .next (finish (request .rset anyBody actRset s))

/-! ## Receiving and transmitting -/

/-- FRAME_RECEIVED: the last byte of a frame completes it and it is judged (R173). A byte that completes none is
LINK_BYTE_RECEIVED's (notes/assumptions/4.md). -/
def execFrameReceived (b : Byte) (s : State) : Outcome State Fault Refusal :=
  .next (finish (if s.svl.completes b then s.modSvl (Svl.takeByte s.now b) else s))

/-- LINK_BYTE_RECEIVED: a byte arrives at the assembler (R173). -/
def execLinkByteReceived (b : Byte) (s : State) : Outcome State Fault Refusal :=
  .next (finish (s.modSvl (Svl.takeByte s.now b)))

/-- INTERBYTE_GAP_EXPIRY: the frame is discarded and link-fault set (R173). -/
def execInterbyteGapExpiry (s : State) : Outcome State Fault Refusal :=
  .next (finish (if s.svl.assembler.isSome && timerDue s s.svl.gap then
    s.modSvl (fun v => { v.hunt with linkFault := true }) else s))

/-- UNKNOWN_KIND_FRAME: the frame at the head carries no request kind (R174 test 1). -/
def execUnknownKindFrame (s : State) : Outcome State Fault Refusal :=
  .next (finish (match nextRequest s with
    | none => s
    | some f => if reqKindOf f.kind = none then putReply f (.nak .unknownKind) (popFrame s) else s))

/-- TRANSMIT_FRAME_END: the frame in transmission ends and the next is chosen (R176). -/
def execTransmitFrameEnd (s : State) : Outcome State Fault Refusal :=
  .next (finish (s.modSvl (fun v => { v with tx := none })))

/-! ## IDENT, STAT, RDCFG -/

/-- The IDENT ACK body (R179). -/
def identBody (s : State) : List Byte :=
  u16 Config.vendorCode ++ u16 Config.partCode ++ u8 Config.revision ++ u8 6 ++ u8 12 ++ u8 96 ++ u32 (timeTag s)

def actIdent (_ : List Byte) (s : State) : Answer := accept (identBody s) s

/-- IDENT (R179). -/
def execIdent (s : State) : Outcome State Fault Refusal := .next (finish (request .ident anyBody actIdent s))

/-- STAT's answer; the flags are cleared as the reply is built (R177, R179). -/
def actStat (b : List Byte) (s : State) : Answer :=
  let target := field b 0 1
  let page := field b 1 1
  match statPage s target page with
  | none => refuse .badTarget s
  | some body => accept (statHead s target page ++ body) (s.modSvl (fun v => { v with linkFault := false, eventsLost := false }))

/-- STAT (R179). -/
def execStat (s : State) : Outcome State Fault Refusal := .next (finish (request .stat anyBody actStat s))

/-- The record RDCFG returns, or its refusal (R172). -/
def readRecord (s : State) (kind a b : Nat) : ReplyBody :=
  match kind with
  | 0 => match oneBased 12 a with
    | none => .nak .badTarget
    | some l => match s.cfg.lines.look l with
      | none => .nak .notConfigured
      | some r => .ack (lineCfgBytes s l r)
  | 1 => match zeroBased 8 a with
    | none => .nak .badTarget
    | some i => .ack (matrixRow s i)
  | 2 => match oneBased 6 a with
    | none => .nak .badTarget
    | some c => .ack (paramBytes (s.cfg.chambers.look c))
  | 3 => match oneBased 6 a, oneBased 8 b with
    | some c, some k => .ack (mapBytes ((s.cfg.maps.look c).look k))
    | _, _ => .nak .badTarget
  | 4 => match zeroBased 96 a with
    | none => .nak .badTarget
    | some e => .ack (pollBytes (s.cfg.poll.look e))
  | 5 => .ack (forelineBytes s)
  | 6 => match inputOf a b with
    | none => .nak .badTarget
    | some i => .ack (u32 (s.cfg.qualMs.look (inputIx i)))
  | _ => .nak .badValue

def actRdcfg (b : List Byte) (s : State) : Answer := (s, readRecord s (field b 0 1) (field b 1 1) (field b 2 1))

/-- RDCFG (R172). -/
def execRdcfg (s : State) : Outcome State Fault Refusal := .next (finish (request .rdcfg anyBody actRdcfg s))

/-! ## CFGLK, EVMSK, MARK -/

/-- CFGLK's answer (R165): the gate's test is the one that judges it. -/
def actCfglk (b : List Byte) (s : State) : Answer :=
  match lockOf (field b 0 1) with
  | none => refuse .badValue s
  | some l => if gateOpen s then accept (u8 l.code) (s.modCfg (fun g => { g with lock := l })) else refuse .locked s

/-- CFGLK (R165). -/
def execCfglk (s : State) : Outcome State Fault Refusal := .next (finish (request .cfglk anyBody actCfglk s))

/-- The mask a byte carries: bit k is category k of R177's table. -/
def maskOf (n : Nat) : Table Bool 7 :=
  (allIx 7).foldl (fun (t : Table Bool 7) i => t.put i (n.testBit i.val)) (Vector.replicate 7 false)

/-- The byte of a mask. -/
def maskByte (t : Table Bool 7) : Nat := flags ((allIx 7).map (fun i => t.look i))

def actEvmsk (b : List Byte) (s : State) : Answer :=
  let m := maskOf (field b 0 1)
  accept (u8 (maskByte m)) (s.modSvl (fun v => { v with mask := m }))

/-- EVMSK (R178). -/
def execEvmsk (s : State) : Outcome State Fault Refusal := .next (finish (request .evmsk anyBody actEvmsk s))

/-- MARK's answer: appended whatever the mask, or refused with events-lost set (R178). -/
def actMark (b : List Byte) (s : State) : Answer :=
  if Config.eventQueueSize ≤ s.svl.events.length then
    refuse .queueFull (s.modSvl (fun v => { v with eventsLost := true }))
  else accept (u32 (timeTag s)) (post (.mark (field b 0 4)) s)

/-- MARK (R178). -/
def execMark (s : State) : Outcome State Fault Refusal := .next (finish (request .mark anyBody actMark s))

end Sys2Proof.Machine
end

