-- ==== Sys2Proof/Machine/Dispatch.lean ====
section
/-! DEFINITION. The dispatcher: one arm per command, each a direct call of its meaning. -/

namespace Sys2Proof.Machine

open Host (Outcome)

def exec (i : Instr) (s : State) : Host.Outcome State Fault Refusal :=
  match i with
  | .fullReset => Sys2Proof.Machine.execFullReset s
  | .frameReceived b => Sys2Proof.Machine.execFrameReceived b s
  | .interbyteGapExpiry => Sys2Proof.Machine.execInterbyteGapExpiry s
  | .unknownKindFrame => Sys2Proof.Machine.execUnknownKindFrame s
  | .transmitFrameEnd => Sys2Proof.Machine.execTransmitFrameEnd s
  | .ident => Sys2Proof.Machine.execIdent s
  | .stat => Sys2Proof.Machine.execStat s
  | .cfgln => Sys2Proof.Machine.execCfgln s
  | .cfgcx => Sys2Proof.Machine.execCfgcx s
  | .cfgch => Sys2Proof.Machine.execCfgch s
  | .cfgmap => Sys2Proof.Machine.execCfgmap s
  | .cfgpt => Sys2Proof.Machine.execCfgpt s
  | .cfgfl => Sys2Proof.Machine.execCfgfl s
  | .cfgiq => Sys2Proof.Machine.execCfgiq s
  | .cfglk => Sys2Proof.Machine.execCfglk s
  | .rdcfg => Sys2Proof.Machine.execRdcfg s
  | .ptenEnable => Sys2Proof.Machine.execPtenEnable s
  | .ptenDisable => Sys2Proof.Machine.execPtenDisable s
  | .onln => Sys2Proof.Machine.execOnln s
  | .offln => Sys2Proof.Machine.execOffln s
  | .step => Sys2Proof.Machine.execStep s
  | .abrt => Sys2Proof.Machine.execAbrt s
  | .rsus => Sys2Proof.Machine.execRsus s
  | .rres => Sys2Proof.Machine.execRres s
  | .clrf => Sys2Proof.Machine.execClrf s
  | .linePumpout => Sys2Proof.Machine.execLinePumpout s
  | .lineLockout => Sys2Proof.Machine.execLineLockout s
  | .lineUnlock => Sys2Proof.Machine.execLineUnlock s
  | .rpt => Sys2Proof.Machine.execRpt s
  | .totl => Sys2Proof.Machine.execTotl s
  | .evmsk => Sys2Proof.Machine.execEvmsk s
  | .mark => Sys2Proof.Machine.execMark s
  | .rset => Sys2Proof.Machine.execRset s
  | .rawInputChange p level => Sys2Proof.Machine.execRawInputChange p level s
  | .emoAssertion => Sys2Proof.Machine.execEmoAssertion s
  | .qualificationExpiry inp => Sys2Proof.Machine.execQualificationExpiry inp s
  | .qualifiedChangeNotice o inp => Sys2Proof.Machine.execQualifiedChangeNotice o inp s
  | .arcEdge c => Sys2Proof.Machine.execArcEdge c s
  | .arcMergeExpiry c => Sys2Proof.Machine.execArcMergeExpiry c s
  | .valveTravelExpiry c v => Sys2Proof.Machine.execValveTravelExpiry c v s
  | .linePumpValveTravelExpiry l => Sys2Proof.Machine.execLinePumpValveTravelExpiry l s
  | .holdExpiry c => Sys2Proof.Machine.execHoldExpiry c s
  | .roughTimerExpiry c => Sys2Proof.Machine.execRoughTimerExpiry c s
  | .baseTimerExpiry c => Sys2Proof.Machine.execBaseTimerExpiry c s
  | .ventTimerExpiry c => Sys2Proof.Machine.execVentTimerExpiry c s
  | .admitTimerExpiry c => Sys2Proof.Machine.execAdmitTimerExpiry c s
  | .purgeTimerExpiry c => Sys2Proof.Machine.execPurgeTimerExpiry c s
  | .settleTimerExpiry c => Sys2Proof.Machine.execSettleTimerExpiry c s
  | .settleLimitExpiry c => Sys2Proof.Machine.execSettleLimitExpiry c s
  | .durationExpiry c => Sys2Proof.Machine.execDurationExpiry c s
  | .excursionExpiry c => Sys2Proof.Machine.execExcursionExpiry c s
  | .strikeTimerExpiry c => Sys2Proof.Machine.execStrikeTimerExpiry c s
  | .maskExpiry c => Sys2Proof.Machine.execMaskExpiry c s
  | .overetchExpiry c => Sys2Proof.Machine.execOveretchExpiry c s
  | .cyclePhaseExpiry c => Sys2Proof.Machine.execCyclePhaseExpiry c s
  | .deviationExpiry c k => Sys2Proof.Machine.execDeviationExpiry c k s
  | .pumpoutCompletion => Sys2Proof.Machine.execPumpoutCompletion s
  | .removalMessage l => Sys2Proof.Machine.execRemovalMessage l s
  | .begunMessage l => Sys2Proof.Machine.execBegunMessage l s
  | .stoppedMessage l => Sys2Proof.Machine.execStoppedMessage l s
  | .completeMessage l => Sys2Proof.Machine.execCompleteMessage l s
  | .instrumentFrameBegin => Sys2Proof.Machine.execInstrumentFrameBegin s
  | .instrumentReply reply => Sys2Proof.Machine.execInstrumentReply reply s
  | .responseWindowExpiry => Sys2Proof.Machine.execResponseWindowExpiry s
  | .linkByteReceived b => Sys2Proof.Machine.execLinkByteReceived b s

end Sys2Proof.Machine
end

