-- ==== Sys2Proof/Machine/Step.lean ====
section
/-! DEFINITION. One step: the command at the front of the queue, or, with no command waiting, one millisecond. -/

namespace Sys2Proof.Machine

/-- One millisecond passes: every timer is an expiry on this clock (R180, notes/assumptions/1.md). -/
def State.tick (s : State) : State := { s with now := s.now + 1 }

/-- Takes the command at the front of the queue and runs it with the queue's rest; on an empty queue a millisecond passes. -/
def step (s : State) : Host.Outcome State Fault Refusal :=
  match s.pending with
  | [] => .next s.tick
  | i :: rest => exec i { s with pending := rest }

/-- s with the command the word spells put at the front of its queue; s where the word spells none. -/
def State.withFetchWord (s : State) (nbits w : Nat) : State :=
  match Sys2Proof.decodeTableWord nbits w with
  | none => s
  | some i => { s with pending := i :: s.pending }

end Sys2Proof.Machine
end

