-- ==== Sys2Proof/Safety.lean ====
section
/-! DEFINITION. What counts as a safe part, in the terms the claims use: the valve law of a chamber, the bounds of the
queues, the remainders of the totals, and how a request is answered. -/

namespace Sys2Proof.Machine

/-! ## The valve law (R20) -/

/-- A valve is engaged while it is commanded open or counts open: exactly while it is not closed. -/
def Valve.engaged (v : Valve) : Bool := v.cmd || v.countsOpen

/-- A rough valve is engaged. -/
def Csq.roughEngaged (q : Csq) : Bool := q.roughSoft.engaged || q.roughFast.engaged

/-- At most one of GATE, the rough valves and VENT is engaged (R20). -/
def Csq.lawful (q : Csq) : Bool :=
  !(q.vent.engaged && (q.gate.engaged || q.roughEngaged)) && !(q.gate.engaged && q.roughEngaged)

/-- Every chamber's valves obey the law. -/
def ValveLaw (s : State) : Prop := ∀ c : Chamber, (s.ch c).lawful = true

/-- R20's law in its own words: no vent valve open together with the gate or a rough valve, no gate valve open together
with a rough valve. -/
def ValvesApart (s : State) : Prop := ∀ c : Chamber,
  ((s.ch c).vent.countsOpen = true → (s.ch c).gate.countsOpen = false ∧ (s.ch c).roughOpen = false) ∧
  ((s.ch c).gate.countsOpen = true → (s.ch c).roughOpen = false)

/-! ## Bounds -/

/-- The queues hold at most what they have room for: the request buffer 4 (chapter 12), the event queue 32 (R177), each
report queue 8 (R39), the urgent queue 16 (R149); and the transaction in flight is one of those that have been built
(notes/assumptions/50.md). -/
structure Bounded (s : State) : Prop where
  buffer : s.svl.buffer.length ≤ Config.requestBufferSize
  events : s.svl.events.length ≤ Config.eventQueueSize
  reports : ∀ c : Chamber, (s.ch c).reports.length ≤ Config.reportQueueSize
  urgent : s.ilc.urgent.length ≤ Config.urgentQueueSize
  flight : ∀ x, s.ilc.inFlight = some x → x.number < s.ilc.built

/-- Every line remainder is below 600,000,000 (R105). -/
def RemaindersLow (s : State) : Prop := ∀ l : Line, (s.ln l).rem < Config.integrationDivisor

/-- The two states agree in every configuration record (chapter 11). -/
def SameConfig (s t : State) : Prop := t.cfg = s.cfg

/-! ## Requests and replies -/

/-- The SVL after a request's reply: the frame has left the buffer, the reply is in the slot, and an idle transmitter has
taken it (R174, R176). -/
def Svl.answered (f : Frame) (r : ReplyBody) (v : Svl) : Svl :=
  Svl.transmit { v with buffer := v.buffer.tail, reply := some { tag := f.tag, body := r } }

/-- The reply a request has got, and the request buffer after it: the frame has left; the reply is in transmission if the
transmitter was idle, else it waits in the slot (R174, R176). -/
def Answered (s t : State) (f : Frame) (r : ReplyBody) : Prop :=
  t.svl.buffer = s.svl.buffer.tail ∧
  if s.svl.tx.isSome then t.svl.reply = some { tag := f.tag, body := r } ∧ t.svl.tx = s.svl.tx
  else t.svl.reply = none ∧ t.svl.tx = some (replyFrame { tag := f.tag, body := r })

/-- The request that is next to be handled is a frame of a kind that a body of this length fits (R174). -/
structure Asks (s : State) (k : ReqKind) (f : Frame) : Prop where
  next : nextRequest s = some f
  kind : reqKindOf f.kind = some k
  fits : lengthFits k f.body = true

/-- The request is refused with a code, and nothing else changes but that it has left the buffer and its reply is on its way
(R174, R175). -/
def Refuses (i : Instr) (s : State) (f : Frame) (n : Nak) : Prop :=
  exec i s = .next (s.modSvl (Svl.answered f (.nak n)))

/-- The command changes nothing; an idle transmitter takes its next frame (R176). -/
def Idles (i : Instr) (s : State) : Prop := exec i s = .next (s.modSvl Svl.transmit)

/-- A request's one event stands at the end of the event queue, unless the mask or a full queue drops it (R177). -/
def Posted (s t : State) (e : Event) : Prop :=
  unmasked s e = true → s.svl.events.length < Config.eventQueueSize →
    t.svl.events = s.svl.events ++ [{ tag := timeTag s, event := e }]

/-- These events stand in this order behind the event queue as it was, those that the mask drops left out, and what else the
command posts stands behind them; said while a frame is in transmission, so that none is taken, and the queue has room (R177). -/
def PostedFirst (s t : State) (es : List Event) : Prop :=
  s.svl.tx ≠ none → s.svl.events.length + (es.filter (unmasked s)).length ≤ Config.eventQueueSize →
    ∃ rest, t.svl.events =
      s.svl.events ++ (es.filter (unmasked s)).map (fun e => { tag := timeTag s, event := e }) ++ rest

/-- No admission queue service is owed: what stands between two commands. -/
def Served (s : State) : Prop := s.gat.serviceDue = false

/-- The line state that an accepted CFGLN leaves, by the state it finds and whether the cabinet is ready (R77). -/
def LineState.written : LineState → Bool → LineState
  | .unconfigured, true => .ready
  | .unconfigured, false => .lockedOut
  | .ready, false => .lockedOut
  | st, _ => st

/-! ## Chambers that a command does not reach -/

/-- The chamber waits for no line and for no foreline, and does not hold the foreline. -/
structure Out (s : State) (c : Chamber) : Prop where
  queue : c ∉ s.gat.queue
  waiting : s.fla.waiting.look c = false
  holder : s.fla.holder ≠ some (.chamber c)

/-- The frame of a command about one chamber: the configuration, the inputs, the clock, the commands that wait, the receive
side and the mask of the Supervisory Link, every line's state and totals, every poll entry's schedule and instrument state,
and every other chamber that waits for nothing and does not hold the foreline are as they were. (A chamber that waits may be
granted what the command releases.) -/
structure FrameOf (c : Chamber) (s t : State) : Prop where
  cfg : t.cfg = s.cfg
  iiu : t.iiu = s.iiu
  now : t.now = s.now
  pending : t.pending = s.pending
  link : t.svl.assembler = s.svl.assembler ∧ t.svl.gap = s.svl.gap ∧ t.svl.mask = s.svl.mask ∧ t.svl.linkFault = s.svl.linkFault
  lines : t.gat.lines = s.gat.lines
  poll : t.ilc.poll = s.ilc.poll
  others : ∀ d : Chamber, d ≠ c → Out s d → t.ch d = s.ch d ∧ ∀ k : Channel, t.chan d k = s.chan d k

/-- What no fault, abort or end of a step changes in its chamber: the manifold residue, the readings and the chamber
pressure. -/
structure SensedAs (s t : State) (c : Chamber) : Prop where
  residue : (t.ch c).residue = (s.ch c).residue
  pressure : (t.ch c).pressure = (s.ch c).pressure
  gauges : (t.ch c).processReading = (s.ch c).processReading ∧ (t.ch c).wideReading = (s.ch c).wideReading
  instruments : (t.ch c).throttlePos = (s.ch c).throttlePos ∧ (t.ch c).genReading = (s.ch c).genReading
    ∧ (t.ch c).biasReading = (s.ch c).biasReading

/-- The frame of a reply about one chamber: as FrameOf, but for the poll entries, whose instrument state the reply may
change and of which the next transaction serves one. -/
structure ReadingFrame (c : Chamber) (s t : State) : Prop where
  cfg : t.cfg = s.cfg
  iiu : t.iiu = s.iiu
  now : t.now = s.now
  pending : t.pending = s.pending
  lines : t.gat.lines = s.gat.lines
  others : ∀ d : Chamber, d ≠ c → Out s d → t.ch d = s.ch d ∧ ∀ k : Channel, (t.chan d k).target = (s.chan d k).target

/-- The step the chamber executes has ended with a result: its report stands in the report queue (R7, R37). -/
def ReportedAs (t : State) (c : Chamber) (id : Nat) (res : Result) : Prop :=
  ∃ r ∈ (t.ch c).reports, r.id = id ∧ r.result = res

/-- A timer of the chamber's executing step has run out in a phase. -/
def Expired (s : State) (c : Chamber) (p : Phase) (e : StepCtx) (t : Timer) : Prop :=
  (s.ch c).inPhase p = true ∧ (s.ch c).exec = some e ∧ timerDue s t = true

/-! ## The foreline law (R58) -/

/-- The foreline's law: the holder is of the kind the state says; a rough valve or line pump valve is commanded open only
for the holder; outside HANDOVER it counts open only for the holder (R58). -/
structure ForelineLaw (s : State) : Prop where
  free : s.fla.state = .idle ∨ s.fla.state = .handover → s.fla.holder = none
  chamber : s.fla.state = .heldChamber → ∃ c, s.fla.holder = some (.chamber c)
  line : s.fla.state = .heldPumpout → ∃ l, s.fla.holder = some (.line l)
  roughCmd : ∀ c : Chamber, ((s.ch c).roughSoft.cmd || (s.ch c).roughFast.cmd) = true → s.fla.holder = some (.chamber c)
  pumpCmd : ∀ l : Line, (s.fla.pumps.look l).cmd = true → s.fla.holder = some (.line l)
  roughOpen : s.fla.state ≠ .handover → ∀ c : Chamber, (s.ch c).roughOpen = true → s.fla.holder = some (.chamber c)
  pumpOpen : s.fla.state ≠ .handover → ∀ l : Line, (s.fla.pumps.look l).countsOpen = true → s.fla.holder = some (.line l)

/-! ## The chamber law -/

/-- What holds of a chamber between commands: it executes a step and is in a phase exactly while RUNNING (R1, R6), has a cause
exactly while FAULTED (R16) and a hold timer exactly while HELD (R9); its slots and pointers are in one of R35's arrangements;
RF_EN is on exactly in the phases R21 names, with both setpoints 0 otherwise; OFFLINE, READY and FAULTED hold no gas, with
every flow target 0 and the throttle OPEN (R11, R15, R22, R112); it is in the admission queue only in ADMIT, with its request
and admission timer (R87), in the waiting set only in WAIT_FORELINE, and holds the foreline only in a roughing phase (R41). -/
structure ChamberLaw (s : State) (c : Chamber) : Prop where
  step : (s.ch c).exec.isSome = true ↔ (s.ch c).state = .running
  phase : (s.ch c).phase ≠ .none ↔ (s.ch c).state = .running
  cause : (s.ch c).cause.isSome = true ↔ (s.ch c).state = .faulted
  hold : (s.ch c).hold.isSome = true ↔ (s.ch c).state = .held
  noSteps : (s.ch c).state ≠ .running → (s.ch c).slotA = none ∧ (s.ch c).slotB = none ∧ (s.ch c).loadPtr = (s.ch c).runPtr
  steps : ∀ e, (s.ch c).exec = some e → e.slot = (s.ch c).runPtr.other ∧ (s.ch c).slot e.slot = some e.record ∧
    ((s.ch c).loadPtr = (s.ch c).runPtr ↔ (s.ch c).slot (s.ch c).runPtr = none)
  rf : (s.ch c).rfEn = true ↔ (s.ch c).state = .running ∧ (s.ch c).phase.countsArcs = true
  power : (s.ch c).rfEn = false → (s.ch c).source = 0 ∧ (s.ch c).bias = 0
  still : (s.ch c).state = .offline ∨ (s.ch c).state = .ready ∨ (s.ch c).state = .faulted →
    (s.ch c).holdings = [] ∧ (s.ch c).throttle = .open ∧ ∀ k : Channel, (s.chan c k).target = 0
  queue : c ∈ s.gat.queue → (s.ch c).inPhase .admission = true
  request : c ∈ s.gat.queue ↔ (s.ch c).request.isSome = true
  admitTimer : (s.ch c).admitTimer.isSome = (s.ch c).request.isSome
  waits : s.fla.waiting.look c = true → (s.ch c).inPhase .waitForeline = true
  holds : s.fla.holder = some (.chamber c) →
    (s.ch c).inPhase .roughSoft = true ∨ (s.ch c).inPhase .roughFast = true ∨ (s.ch c).inPhase .roughPaused = true

/-! ## Outcomes of a chamber -/

/-- Every flow target of the chamber is 0, so every stick valve is closed (R102). -/
def Flowless (s : State) (c : Chamber) : Prop := ∀ k : Channel, (s.chan c k).target = 0

/-- What stands of a chamber that has entered FAULTED with a cause (R15, R16). -/
structure FaultedWith (t : State) (c : Chamber) (cause : Result) : Prop where
  state : (t.ch c).state = .faulted
  phase : (t.ch c).phase = .none
  cause : (t.ch c).cause = some cause
  noStep : (t.ch c).exec = none
  rf : (t.ch c).rfEn = false ∧ (t.ch c).source = 0 ∧ (t.ch c).bias = 0
  flows : Flowless t c
  throttle : (t.ch c).throttle = .open
  valves : (t.ch c).gate.cmd = false ∧ (t.ch c).roughSoft.cmd = false ∧ (t.ch c).roughFast.cmd = false
    ∧ (t.ch c).vent.cmd = false
  holdings : (t.ch c).holdings = []
  queue : c ∉ t.gat.queue
  foreline : t.fla.waiting.look c = false ∧ t.fla.holder ≠ some (.chamber c)
  notHighvac : (t.ch c).vac ≠ .highvac

/-- A waiting step was flushed: its report has its load and the tag of the flush, and nothing else; a CYCLE step's cycles are 0
(R36, R37, R140). -/
def FlushedAs (s t : State) (c : Chamber) (w : StepRec) : Prop :=
  ∃ r ∈ (t.ch c).reports, r.id = w.id ∧ r.kind = w.kind ∧ r.result = .flushed ∧ r.startTag = timeTag s ∧ r.endTag = timeTag s ∧
    r.admitWait = 0 ∧ r.purged = false ∧ r.mainMs = 0 ∧ r.endpointMs = none ∧ r.overetchMs = none ∧
    r.cycles = (if w.kind = .cycle then some 0 else none) ∧ r.arcs = 0 ∧ r.minMax = none ∧ r.warnings = w.warnings ∧ r.gas = []

/-- The vacuum status a fault leaves: ROUGHED for a step in CROSSOVER or HIGH_VAC, UNKNOWN for one in VENT_ISOLATE or VENTING, and
in the other cases as it was; HIGHVAC becomes ROUGHED (R15). -/
def vacAfterFault (s : State) (c : Chamber) : Vac :=
  if (s.ch c).inPhase .crossover || (s.ch c).inPhase .highVac then .roughed
  else if (s.ch c).inPhase .ventIsolate || (s.ch c).inPhase .venting then .unknown
  else if (s.ch c).vac = .highvac then .roughed
  else (s.ch c).vac

/-- The chamber has been faulted from a state it was in, with the frame of a command about it. Its executing step, if any, has its
report, its waiting step is flushed, and both slots are free; its valves are commanded closed, every current command is 0 and every
deviation timer stopped (R7, R15, R35, R36, R100, R107). A valve closed out of its opening travel closes over a whole travel
(notes/assumptions/7.md). -/
structure FaultedFrom (s t : State) (c : Chamber) (cause : Result) : Prop where
  frame : FrameOf c s t
  now : FaultedWith t c cause
  sensed : SensedAs s t c
  report : ∀ e, (s.ch c).state = .running → (s.ch c).exec = some e → ReportedAs t c e.record.id cause
  vac : (t.ch c).vac = vacAfterFault s c
  closed : ∀ v : ChamberValve, (t.ch c).valve v = ((s.ch c).valve v).commandClose s.now (travelOf s c v)
  channels : ∀ k : Channel, (t.chan c k).current = 0 ∧ (t.chan c k).deviation = none
  timers : (t.ch c).hold = none ∧ (t.ch c).request = none ∧ (t.ch c).admitTimer = none
  slots : ∀ e, (s.ch c).state = .running → (s.ch c).exec = some e → e.slot = (s.ch c).runPtr.other →
    (t.ch c).slotA = none ∧ (t.ch c).slotB = none ∧ (t.ch c).runPtr = (s.ch c).runPtr ∧
    ∀ w, (s.ch c).slot (s.ch c).runPtr = some w → FlushedAs s t c w ∧ (t.ch c).loadPtr = (t.ch c).runPtr

/-- The events that follow from the end of a chamber's executing step with a result that is not OK, in order: STEPEND of the step,
and STEPEND of the step that waits in the slot at the run pointer (R7, R15, R36). -/
def breakEvents (s : State) (c : Chamber) (res : Result) : List Event :=
  match (s.ch c).exec with
  | some e =>
    if (s.ch c).state = .running then
      .stepend c e.record.id res ::
        match (s.ch c).slot (s.ch c).runPtr with
        | some w => [.stepend c w.id .flushed]
        | none => []
    else []
  | none => []

/-- The records of one fault stand in R15's order: STEPEND of the failed step, STEPEND of the flushed one, FAULT, CHSTATE. That the
FORELINE of the foreline it releases stands behind them is the model's (notes/assumptions/8.md). -/
def FaultPosts (s t : State) (c : Chamber) (cause : Result) : Prop :=
  (∀ e, (s.ch c).exec = some e → e.slot = (s.ch c).runPtr.other) →
  ((s.ch c).state = .running → (s.ch c).exec.isSome = true) →
    PostedFirst s t (breakEvents s c cause ++ [.fault c cause, .chstate c .faulted .none (vacAfterFault s c)])

/-- The command's first act is the fault: the chamber is faulted, and the records of the fault stand first (R15). -/
structure FaultedNow (s t : State) (c : Chamber) (cause : Result) : Prop where
  from_ : FaultedFrom s t c cause
  posts : FaultPosts s t c cause

/-- What stands of a chamber that has entered READY from RUNNING or HELD (R11). -/
structure EnteredReady (t : State) (c : Chamber) : Prop where
  state : (t.ch c).state = .ready
  phase : (t.ch c).phase = .none
  noStep : (t.ch c).exec = none
  hold : (t.ch c).hold = none
  rf : (t.ch c).rfEn = false ∧ (t.ch c).source = 0 ∧ (t.ch c).bias = 0
  flows : Flowless t c
  throttle : (t.ch c).throttle = .open
  holdings : (t.ch c).holdings = []
  queue : c ∉ t.gat.queue
  foreline : t.fla.waiting.look c = false ∧ t.fla.holder ≠ some (.chamber c)

/-! ## Outcomes of a step -/

/-- The chamber executes the process step e, and no step waits behind it. -/
structure LastStep (s : State) (c : Chamber) (e : StepCtx) : Prop where
  kind : e.record.kind.isProcess = true
  slot : e.slot = (s.ch c).runPtr.other
  alone : (s.ch c).slot (s.ch c).runPtr = none

/-- A PURGE step of this record leaves a clean manifold when it ends OK: it names a line with a flow above 0, its lines are
all of class 0, and it lasts at least the manifold purge time (R93, R129). -/
def CleansManifold (s : State) (c : Chamber) (r : StepRec) : Prop :=
  r.kind = .purge ∧ (∃ g ∈ r.entries, 0 < g.flow) ∧ (∀ g ∈ r.entries, classOf s g.line = some 0) ∧
    (s.cfg.chambers.look c).purgeTimeS * 1000 ≤ r.durationMs

/-- The last process step of a chamber has ended OK: its report is filed, and the chamber is HELD with its flows, holdings,
throttle and valves as they were and the hold timer loaded, or READY where the hold limit is 0; its STEPEND stands before the
CHSTATE; a PURGE step may have cleaned the manifold (R2, R7, R8, R9, R93). -/
structure EndedOk (s t : State) (c : Chamber) (e : StepCtx) : Prop where
  frame : FrameOf c s t
  report : ReportedAs t c e.record.id .ok
  held : 0 < (s.cfg.chambers.look c).holdLimitS →
    (t.ch c).state = .held ∧ (t.ch c).phase = .none ∧ (t.ch c).exec = none ∧
    (t.ch c).hold = some (s.now + (s.cfg.chambers.look c).holdLimitS * 1000) ∧
    (t.ch c).rfEn = false ∧ (t.ch c).source = 0 ∧ (t.ch c).bias = 0 ∧
    (t.ch c).throttle = (s.ch c).throttle ∧ (t.ch c).holdings = (s.ch c).holdings ∧ (t.ch c).vac = (s.ch c).vac ∧
    (∀ v : ChamberValve, (t.ch c).valve v = (s.ch c).valve v) ∧ (∀ k : Channel, t.chan c k = s.chan c k)
  ready : (s.cfg.chambers.look c).holdLimitS = 0 → EnteredReady t c
  posts : PostedFirst s t [.stepend c e.record.id .ok,
    .chstate c (if (s.cfg.chambers.look c).holdLimitS = 0 then .ready else .held) .none (s.ch c).vac]
  clean : CleansManifold s c e.record → ∀ g : GasClass, (t.ch c).residue.look g = decide (g = 0)
  residue : ¬CleansManifold s c e.record → (t.ch c).residue = (s.ch c).residue

/-- Some line of a pending request is LOCKED_OUT (R87). -/
def Request.lost (s : State) (rq : Request) : Prop := ∃ w ∈ rq.wants, (s.ln w.line).state = .lockedOut

/-- The first set of flow targets of an admitted step: the purge entry alone where a purge is inserted, else its own (R88). -/
def firstTargets (s : State) (c : Chamber) (r : StepRec) : Channel → Nat :=
  if (buildRequest s c r).purge then purgeTargets r.purge else r.cmdA

/-- The chamber has started a process step with vacuum status HIGHVAC and its lid closed: it is faulted with LINE_LOST; or it
waits in ADMIT at the tail of the admission queue, its flow targets, holdings and throttle carried over; or it is admitted at
once, holds what it asked for, and is in the phase the purge decision and the kind give; but where a stick valve would open
with EXH_OK not true it is faulted with EXHAUST (R6, R14, R86, R87, R88, R102). -/
structure ProcessStarted (s t : State) (c : Chamber) (r : StepRec) : Prop where
  lost : (buildRequest s c r).lost s → FaultedWith t c .lineLost ∧ ReportedAs t c r.id .lineLost
  waits : ¬(buildRequest s c r).lost s → (admissible s c (buildRequest s c r) = false ∨ emoAsserted s = true) →
    (t.ch c).state = .running ∧ (t.ch c).phase = .admission ∧ t.gat.queue = s.gat.queue ++ [c] ∧
    (t.ch c).request = some (buildRequest s c r) ∧
    (t.ch c).admitTimer = some (s.now + (s.cfg.chambers.look c).admitLimitS * 1000) ∧
    (t.ch c).holdings = (s.ch c).holdings ∧ (t.ch c).throttle = (s.ch c).throttle ∧
    (∀ k : Channel, (t.chan c k).target = (s.chan c k).target) ∧
    ∃ e, (t.ch c).exec = some e ∧ e.record = r ∧ e.admitAt = some s.now
  exhaust : ¬(buildRequest s c r).lost s → admissible s c (buildRequest s c r) = true → emoAsserted s = false →
    exhOk s = false → wouldOpen c (firstTargets s c r) s = true → FaultedWith t c .exhaust ∧ ReportedAs t c r.id .exhaust
  admitted : ¬(buildRequest s c r).lost s → admissible s c (buildRequest s c r) = true → emoAsserted s = false →
    (exhOk s = true ∨ wouldOpen c (firstTargets s c r) s = false) →
    (t.ch c).state = .running ∧ (t.ch c).holdings = (buildRequest s c r).wants ∧ c ∉ t.gat.queue ∧
    (t.ch c).request = none ∧ (t.ch c).admitTimer = none ∧ (∀ k : Channel, (t.chan c k).target = firstTargets s c r k) ∧
    ∃ e, (t.ch c).exec = some e ∧ e.record = r ∧ e.admitWait = some 0 ∧
      ((buildRequest s c r).purge = true → (t.ch c).phase = .manifoldPurge ∧ (t.ch c).throttle = .open ∧
        e.purgeTimer = some (s.now + (s.cfg.chambers.look c).purgeTimeS * 1000)) ∧
      ((buildRequest s c r).purge = false → (t.ch c).throttle = .pressure r.targetA ∧
        (r.kind = .purge → (t.ch c).phase = .purging ∧ e.duration = some (s.now + r.durationMs)) ∧
        (r.kind ≠ .purge → (t.ch c).phase = .settle ∧
          e.settleLimit = some (s.now + (s.cfg.chambers.look c).settleLimitS * 1000)))

/-- The chamber is RUNNING in a phase, executing a step of this record. -/
def Executes (t : State) (c : Chamber) (r : StepRec) (p : Phase) : Prop :=
  (t.ch c).state = .running ∧ (t.ch c).phase = p ∧ ∃ e, (t.ch c).exec = some e ∧ e.record = r

/-- No chamber in the admission queue waits for the foreline or holds it: what the chamber law gives. -/
def QueueApart (s : State) : Prop :=
  ∀ d ∈ s.gat.queue, s.fla.waiting.look d = false ∧ s.fla.holder ≠ some (.chamber d)

/-- What a chamber's request for the foreline has led to: an idle, unblocked foreline for which nobody else waits is granted
and the chamber roughs, or is paused while the backing pause is set; otherwise it waits, and a line that pumps out yields, its
pump valve closing (R43, R44, R60, R62, R67). -/
structure ForelineRequested (s t : State) (c : Chamber) (r : StepRec) : Prop where
  granted : s.fla.state = .idle → s.fla.holder = none → grantBlocked s = false →
    (∀ d : Chamber, s.fla.waiting.look d = false) → c ∈ s.cfg.chain →
    t.fla.state = .heldChamber ∧ t.fla.holder = some (.chamber c) ∧ t.fla.waiting.look c = false ∧
    Executes t c r (if s.fla.pause then .roughPaused else (subPhaseAt c s).phase) ∧
    (s.fla.pause = false → (s.ch c).gate.isClosed = true → (s.ch c).vent.isClosed = true →
      (t.ch c).roughSoft.cmd = true ∧ (subPhaseAt c s = .fast → (t.ch c).roughFast.cmd = true))
  waits : s.fla.state ≠ .idle ∨ grantBlocked s = true → (∀ l : Line, s.fla.holder ≠ some (.line l)) →
    Executes t c r .waitForeline ∧ t.fla.waiting.look c = true ∧ t.fla.state = s.fla.state ∧ t.fla.holder = s.fla.holder
  yields : s.fla.state ≠ .idle ∨ grantBlocked s = true → ∀ l : Line, s.fla.holder = some (.line l) →
    (s.fla.pumps.look l).countsOpen = true →
    Executes t c r .waitForeline ∧ t.fla.waiting.look c = true ∧ t.fla.state = .handover ∧ t.fla.holder = none ∧
    t.fla.pumps.look l = (s.fla.pumps.look l).commandClose s.now s.cfg.pumpTravel ∧
    t.fla.toGat = s.fla.toGat ++ [(PumpMsg.stopped, l)]

/-- What has come of a chamber at crossover pressure: with GATE open it is in HIGH_VAC with its base timer loaded; with GATE in
opening travel, or a rough valve or VENT not closed, it waits in CROSSOVER; else GATE is opened, or the chamber is faulted with
FORELINE_LOST or TURBO. That FORE_OK is tested first, and that a GATE already commanded open is not tested, are the model's choices
(notes/assumptions/38.md, notes/assumptions/39.md) (R14, R42, R51, R52). -/
structure CrossedOver (s t : State) (c : Chamber) (r : StepRec) : Prop where
  opened : (s.ch c).gate = { cmd := true, pos := .opened } →
    (t.ch c).state = .running ∧ (t.ch c).phase = .highVac ∧ (t.ch c).gate = (s.ch c).gate ∧
    ∃ e, (t.ch c).exec = some e ∧ e.record = r ∧ e.baseTimer = some (s.now + (s.cfg.chambers.look c).baseTimeoutS * 1000)
  waits : (s.ch c).gate ≠ { cmd := true, pos := .opened } →
    ((s.ch c).gate.cmd = true ∨ (s.ch c).roughOpen = true ∨ (s.ch c).vent.isClosed = false) →
    Executes t c r .crossover ∧ (t.ch c).gate = (s.ch c).gate ∧ (t.ch c).roughSoft.cmd = false ∧ (t.ch c).roughFast.cmd = false
  opens : (s.ch c).gate.cmd = false → (s.ch c).roughOpen = false → (s.ch c).vent.isClosed = true →
    (foreOk s = true → turboOk s c = true → Executes t c r .crossover ∧
      (t.ch c).gate = (s.ch c).gate.commandOpen s.now (s.cfg.chambers.look c).gateTravel s.iiu.forcing) ∧
    (foreOk s = false → FaultedWith t c .forelineLost ∧ ReportedAs t c r.id .forelineLost) ∧
    (foreOk s = true → turboOk s c = false → FaultedWith t c .turbo ∧ ReportedAs t c r.id .turbo)

/-- The chamber has started a PUMPDOWN step: its flow targets are 0 and nothing is held; at crossover pressure it crosses over,
and above it GATE is commanded closed and the foreline is requested (R6, R42, R43). -/
structure PumpdownStarted (s t : State) (c : Chamber) (r : StepRec) : Prop where
  still : (t.ch c).holdings = [] ∧ Flowless t c ∧ (t.ch c).throttle = .open ∧ (t.ch c).vac ≠ .highvac
  crosses : atCrossover s c = true → CrossedOver s t c r
  roughs : atCrossover s c = false → ForelineRequested s t c r ∧
    (t.ch c).gate = if (s.ch c).gate.cmd then (s.ch c).gate.commandClose s.now (s.cfg.chambers.look c).gateTravel else (s.ch c).gate

/-- The chamber has started a VENT step: its flow targets are 0 and nothing is held; it waits in VENT_ISOLATE while GATE counts
open or a rough valve is not closed, GATE commanded closed; else it is in VENTING with VENT opened and its timer loaded (R6, R55,
R56). -/
structure VentStarted (s t : State) (c : Chamber) (r : StepRec) : Prop where
  still : (t.ch c).holdings = [] ∧ Flowless t c ∧ (t.ch c).throttle = .open
  waits : ((s.ch c).gate.countsOpen = true ∨ (s.ch c).roughClosed = false) →
    Executes t c r .ventIsolate ∧ (t.ch c).gate.cmd = false ∧ (t.ch c).vent = (s.ch c).vent ∧ (t.ch c).vac = (s.ch c).vac
  vents : (s.ch c).gate.countsOpen = false → (s.ch c).roughClosed = true →
    (t.ch c).state = .running ∧ (t.ch c).phase = .venting ∧ (t.ch c).vac = .unknown ∧ (t.ch c).vent.cmd = true ∧
    ∃ e, (t.ch c).exec = some e ∧ e.record = r ∧ e.mainAt = some s.now ∧
      e.ventTimer = some (s.now + (s.cfg.chambers.look c).ventTimeoutS * 1000)

/-- The chamber has started the step of this record: with the lid open it is faulted with LID, a process step without HIGHVAC
with NOT_READY; else its first phase is its kind's (R6, R14). -/
structure StepStarted (s t : State) (c : Chamber) (r : StepRec) : Prop where
  lid : lidClosed s c = false → FaultedWith t c .lid ∧ ReportedAs t c r.id .lid
  notReady : lidClosed s c = true → r.kind.isProcess = true → (s.ch c).vac ≠ .highvac →
    FaultedWith t c .notReady ∧ ReportedAs t c r.id .notReady
  process : lidClosed s c = true → r.kind.isProcess = true → (s.ch c).vac = .highvac → ProcessStarted s t c r
  vent : lidClosed s c = true → r.kind = .vent → VentStarted s t c r
  pumpdown : lidClosed s c = true → r.kind = .pumpdown → PumpdownStarted s t c r

/-! ## A STEP body (R25, R28, R183) -/

/-- The entries of gas set A as R183 lays them out, line number and flow, where the kind uses the set (R26). -/
def sentA (k : Kind) (body : List Byte) : List (Nat × Nat) :=
  if k.isProcess then (List.range (field body 5 1)).map (fun i => (field body (53 + 3 * i) 1, field body (54 + 3 * i) 2)) else []

/-- The entries of gas set B, which stand behind those of set A, where the kind uses the set (R26). -/
def sentB (k : Kind) (body : List Byte) : List (Nat × Nat) :=
  if k = .cycle then (List.range (field body 6 1)).map (fun i =>
    (field body (53 + 3 * (field body 5 1 + i)) 1, field body (54 + 3 * (field body 5 1 + i)) 2))
  else []

/-- A used set of the body names the line. -/
def Named (k : Kind) (body : List Byte) (l : Line) : Prop := ∃ x ∈ sentA k body ++ sentB k body, x.1 = l.val + 1

/-- The line is bound to a channel of the chamber. -/
def boundHere (s : State) (c : Chamber) (l : Line) : Prop := ∃ k : Channel, ((s.cfg.maps.look c).look k).line = some l

/-- The line resolves to a channel whose FLOW entry is in use (R29). -/
def Polled (s : State) (c : Chamber) (l : Line) : Prop :=
  ∃ k : Channel, channelOf s c l = some k ∧ (findEntry s (.chamber c) (.flow k)).isSome = true

/-- R28's tests 6 to 12 of a STEP for a chamber and a kind, in their order, each with its refusal; test 11 is three, since its codes
are those of tests 8 to 10. -/
def stepTests (s : State) (c : Chamber) (k : Kind) (body : List Byte) : List (Prop × Nak) :=
  let gas := sentA k body ++ sentB k body
  let purge := (s.cfg.chambers.look c).purgeLine
  [(∀ x ∈ gas, 1 ≤ x.1 ∧ x.1 ≤ 12, .badTarget),
   (((sentA k body).map (·.1)).Nodup ∧ ((sentB k body).map (·.1)).Nodup, .duplicate),
   (∀ l, Named k body l → s.cfg.lines.look l ≠ none, .notConfigured),
   (∀ l, Named k body l → boundHere s c l, .noChannel),
   ((∀ l, Named k body l → Polled s c l) ∧ (k = .plasma ∨ k = .cycle → (findEntry s (.chamber c) .source).isSome = true),
    .notConfigured),
   (gas ≠ [] → ∃ l, purge = some l ∧ s.cfg.lines.look l ≠ none, .notConfigured),
   (gas ≠ [] → ∀ l, purge = some l → boundHere s c l, .noChannel),
   (gas ≠ [] → ∀ l, purge = some l → Polled s c l, .notConfigured),
   (∀ l m, Named k body l → Named k body m → l ≠ m →
      ∀ i j, classOf s l = some i → classOf s m = some j → compatible s i j = true, .incompatible)]

/-- A value below a range becomes its lower end, one above it its upper end, and one within it stays (R31, R33). -/
def clip (lo hi n : Nat) : Nat := if n < lo then lo else if hi < n then hi else n

/-- A gas entry as it is stored for a line number and a flow: resolved, its flow clipped, with the command and the effective flow of
Flow Arithmetic (R25, R29, R30, R98, R99). -/
def LoadedAs (s : State) (c : Chamber) (sent : Nat × Nat) (g : GasEntry) : Prop :=
  g.line.val + 1 = sent.1 ∧ g.flow = min sent.2 50000 ∧ channelOf s c g.line = some g.channel ∧
    ∃ r, s.cfg.lines.look g.line = some r ∧
      g.cmd = (storedCommand g.flow r.gcf ((s.cfg.maps.look c).look g.channel).fs ((s.cfg.maps.look c).look g.channel).floor).1 ∧
      g.eff = effectiveFlow g.cmd r.gcf ((s.cfg.maps.look c).look g.channel).fs

/-- The load of an entry raises FLOW_CLAMPED: its flow is above 50,000, or its command is clamped or lowered (R30, R98). -/
def EntryClamped (s : State) (c : Chamber) (sent : Nat × Nat) : Prop :=
  ∃ (l : Line) (k : Channel) (r : LineCfg), l.val + 1 = sent.1 ∧ channelOf s c l = some k ∧ s.cfg.lines.look l = some r ∧
    (50000 < sent.2 ∨
      (storedCommand (min sent.2 50000) r.gcf ((s.cfg.maps.look c).look k).fs ((s.cfg.maps.look c).look k).floor).2.1 = true)

/-- The load of an entry raises FLOW_RAISED: its command is raised to the channel's floor (R30, R98). -/
def EntryRaised (s : State) (c : Chamber) (sent : Nat × Nat) : Prop :=
  ∃ (l : Line) (k : Channel) (r : LineCfg), l.val + 1 = sent.1 ∧ channelOf s c l = some k ∧ s.cfg.lines.look l = some r ∧
    (storedCommand (min sent.2 50000) r.gcf ((s.cfg.maps.look c).look k).fs ((s.cfg.maps.look c).look k).floor).2.2 = true

/-- The purge entry's line number and flow, for a step that uses a gas entry in a chamber that has a purge line (R25, R29). -/
def sentPurge (s : State) (c : Chamber) (k : Kind) (body : List Byte) : List (Nat × Nat) :=
  if sentA k body ++ sentB k body = [] then []
  else ((s.cfg.chambers.look c).purgeLine.map (fun l => (l.val + 1, (s.cfg.chambers.look c).purgeFlow))).toList

/-! ## The grant decision (R62) -/

/-- What a grant decision made in a state leaves of the foreline: IDLE under a block, or with nobody waiting and no line listed;
the first waiting chamber in chain order; with nobody waiting the head of the list, its pump-out begun unless the backing pause is
set. A head whose progress is complete is left to GrantGoesToFirstInChain (R58, R62, R63, R66). -/
structure ForelineDecided (s t : State) : Prop where
  idle : grantBlocked s = true ∨ (∀ d ∈ s.cfg.chain, s.fla.waiting.look d = false) ∧ s.fla.list = [] →
    t.fla = { s.fla with state := .idle, holder := none, progress := t.fla.progress }
  chamber : ∀ before c after, grantBlocked s = false → s.cfg.chain = before ++ c :: after →
    (∀ d ∈ before, s.fla.waiting.look d = false) → s.fla.waiting.look c = true →
    t.fla = { s.fla with
      state := .heldChamber, holder := some (.chamber c), waiting := s.fla.waiting.put c false, progress := none }
  line : ∀ p rest, grantBlocked s = false → (∀ d ∈ s.cfg.chain, s.fla.waiting.look d = false) → s.fla.list = p :: rest →
    p.acc < pumpTimeMs s p.line →
    t.fla = { s.fla with
      state := .heldPumpout, holder := some (.line p.line), pumpMs := pumpTimeMs s p.line,
      toGat := s.fla.toGat ++ [(PumpMsg.begun, p.line)],
      progress := if s.fla.pause then none else some s.now,
      pumps := if s.fla.pause then s.fla.pumps
        else s.fla.pumps.put p.line ((s.fla.pumps.look p.line).commandOpen s.now s.cfg.pumpTravel s.iiu.forcing) }

/-- What a grant decision made in a state leaves of the chambers: the granted chamber roughs, or is paused while the backing pause is
set; every other chamber is as it was (R44, R62). -/
structure ChambersDecided (s t : State) : Prop where
  none : grantBlocked s = true ∨ (∀ d ∈ s.cfg.chain, s.fla.waiting.look d = false) → t.csq = s.csq
  granted : ∀ before c after, grantBlocked s = false → s.cfg.chain = before ++ c :: after →
    (∀ d ∈ before, s.fla.waiting.look d = false) → s.fla.waiting.look c = true →
    (∀ d : Chamber, d ≠ c → t.ch d = s.ch d) ∧
    ((s.ch c).inPhase .waitForeline = true →
      (t.ch c).state = .running ∧ (t.ch c).phase = (if s.fla.pause then .roughPaused else (subPhaseAt c s).phase) ∧
      (s.fla.pause = false → (s.ch c).gate.isClosed = true → (s.ch c).vent.isClosed = true →
        (t.ch c).roughSoft.cmd = true ∧ (subPhaseAt c s = .fast → (t.ch c).roughFast.cmd = true)))

/-- A decision of the foreline is all that the command has made, but for the chambers it grants to: the other blocks, the
configuration and the clock are as they were. -/
structure Decided (s t : State) : Prop where
  foreline : ForelineDecided s t
  chambers : ChambersDecided s t
  rest : t.gat = s.gat ∧ t.fcu = s.fcu ∧ t.ilc = s.ilc ∧ t.iiu = s.iiu ∧ t.cfg = s.cfg ∧ t.now = s.now

/-! ## Readings (R145, R152, R18) -/

/-- A reply of the transaction in flight (notes/assumptions/50.md) that is judged valid, whose entry is of this owner and role, and
its data (R145). -/
structure GivesReading (s : State) (bs : BusReply) (x : Txn) (o : PollOwner) (r : Role) (data : List Byte) : Prop where
  flight : s.ilc.inFlight = some x
  number : bs.txn = x.number
  judged : x.discarded = false
  owner : ownerOf (s.cfg.poll.look x.entry).owner = some o
  role : roleOf (s.cfg.poll.look x.entry).role = some r
  valid : judgeReply (s.cfg.poll.look x.entry) r bs.bytes = some data

/-- The chamber pressure chosen from the latest process and wide readings after a valid reply of the transaction x: the process
reading of an entry in state OK, which the reply's own now is, at most 90 % of full scale; else the wide reading; else it
stays as it was (R18). -/
def pressureChosen (s : State) (x : Txn) (c : Chamber) (process wide : Option Nat) : Option Nat :=
  let other := match wide with
    | some w => some w
    | none => (s.ch c).pressure
  match process, findEntry s (.chamber c) .gaugeProcess with
  | some p, some e =>
    if (e = x.entry ∨ (s.pollDyn e).state = .ok) ∧ p * 10 ≤ (s.cfg.chambers.look c).processFullScale * 9 then some p else other
  | _, _ => other

/-- A valid gauge reply of the chamber: the latest process and wide readings after it, and the chamber pressure chosen from
them (R152, R18). -/
structure GaugeReading (s : State) (bs : BusReply) (c : Chamber) (process wide p : Option Nat) : Prop where
  reads : ∃ (x : Txn) (data : List Byte), p = pressureChosen s x c process wide ∧
    (GivesReading s bs x (.chamber c) .gaugeProcess data ∧ process = some (bytesNat data) ∧ wide = (s.ch c).wideReading ∨
     GivesReading s bs x (.chamber c) .gaugeWide data ∧ process = (s.ch c).processReading ∧ wide = some (bytesNat data))

/-- A chamber with these readings and this chamber pressure. -/
def Csq.withReadings (q : Csq) (process wide p : Option Nat) : Csq :=
  { q with processReading := process, wideReading := wide, pressure := p }

/-- The step's minimum and maximum after an evaluation in its main phase (R19). -/
def StepCtx.tracked (e : StepCtx) (p : Option Nat) : Option (Nat × Nat) :=
  match p, e.minMax with
  | none, m => m
  | some v, none => some (v, v)
  | some v, some m => some (min m.1 v, max m.2 v)

/-- The excursion timer after an evaluation in a watched phase (R120). -/
def StepCtx.watched (e : StepCtx) (s : State) (c : Chamber) (p : Option Nat) (target : Nat) : Timer :=
  if inBand p target e.record.tolerance then none
  else if e.excursion.isSome || decide ((s.cfg.chambers.look c).excursionMs = 0) then e.excursion
  else some (s.now + (s.cfg.chambers.look c).excursionMs)

/-- The target an executing step's pressure is watched against in a phase, if it is watched there (R120). -/
def StepCtx.watchTarget (e : StepCtx) : Phase → Option Nat
  | .steady => some e.record.targetA
  | .etch => some e.record.targetA
  | .overetch => some e.record.targetA
  | .cyclingA => some e.record.targetA
  | .cyclingB => some e.record.targetB
  | _ => none

/-! ## Frames of the Instrument Link (R146, R147) -/

/-- The entry is due once the countdowns of a beginning frame are lowered (R146). -/
def dueAtFrame (s : State) (e : EntryIx) : Bool :=
  (s.cfg.poll.look e).used && ((s.pollDyn e).due || decide ((s.pollDyn e).countdown ≤ 1))

/-- The list of a beginning frame: urgent entries, oldest mark first, then due entries in ascending number that are not
among them, at most the budget (R147). -/
def frameChosen (s : State) : List EntryIx :=
  let urgent := s.ilc.urgent.take s.cfg.budget
  (urgent ++ (allIx 96).filter (fun e => dueAtFrame s e && !decide (e ∈ urgent))).take s.cfg.budget

/-- A due entry that a beginning frame leaves out (R148). -/
def leftOut (s : State) (e : EntryIx) : Bool := dueAtFrame s e && !decide (e ∈ frameChosen s)

/-! ## Capacity (R75, R84) -/

/-- Every line that a record names, its purge line among them, is bound to a channel of the chamber. -/
def StepRec.bound (r : StepRec) (s : State) (c : Chamber) : Prop :=
  (∀ g ∈ r.entries, boundHere s c g.line) ∧ ∀ g, r.purge = some g → boundHere s c g.line

/-- These holdings leave room for the flow a record wants on its purge line for itself. -/
def StepRec.covered (r : StepRec) (hs : List Holding) : Prop :=
  ∀ g n, r.purge = some g → r.wanted g.line = some n → ∀ h ∈ hs, h.line = g.line → n ≤ h.flow

/-- No configured line is allocated beyond its capacity, and no chamber stands twice in the admission queue (R75, R84, R87); and
what keeps it so: a chamber that is not OFFLINE holds, asks for and names in its steps only lines bound to its channels, no line
twice in a request, and a purge that ends gives back room. -/
structure CapacityLaw (s : State) : Prop where
  capacity : ∀ (l : Line) (r : LineCfg), s.cfg.lines.look l = some r → allocated s l ≤ r.capacity
  once : s.gat.queue.Nodup
  held : ∀ (c : Chamber) (h : Holding), h ∈ (s.ch c).holdings → (s.ch c).state ≠ .offline ∧ boundHere s c h.line
  wanted : ∀ (c : Chamber) (rq : Request), (s.ch c).request = some rq →
    (s.ch c).state ≠ .offline ∧ (rq.wants.map (·.line)).Nodup ∧ ∀ w ∈ rq.wants, boundHere s c w.line
  slots : ∀ (c : Chamber) (x : Slot) (r : StepRec), (s.ch c).slot x = some r → (s.ch c).state ≠ .offline ∧ r.bound s c
  step : ∀ (c : Chamber) (e : StepCtx), (s.ch c).exec = some e →
    (s.ch c).state ≠ .offline ∧ e.record.bound s c ∧
    (∀ rq, (s.ch c).request = some rq → rq.purge = true → e.record.covered rq.wants) ∧
    ((s.ch c).phase = .manifoldPurge → e.record.covered (s.ch c).holdings)

end Sys2Proof.Machine
end

