-- ==== Sys2Proof/Certificates/Slice0/Obligations.lean ====
section
/-! DEFINITION. The statements for the provers. Unless a statement says otherwise it is about every state; the hypotheses
Served s (no admission queue service is owed) and Asks s k f (the next request is f, of kind k and of the kind's length) are
what stands between two commands. -/

open Sys2Proof Sys2Proof.Machine

/-! ## The machine as a whole -/

/-- A step runs the command at the front of the queue, on the state with the queue's rest. -/
def Obligations.StepRunsFrontCommand : Prop :=
  ∀ (c : Instr) (s : State) (rest : List Instr), step { s with pending := c :: rest } = exec c { s with pending := rest }

/-- With no command waiting, one millisecond passes and nothing else changes: the model's choice, notes/assumptions/1.md. -/
def Obligations.EmptyQueuePassesOneMillisecond : Prop :=
  ∀ s : State, s.pending = [] → step s = .next { s with now := s.now + 1 }

/-- Every command has a next state, whatever the state and the operands; after it no admission queue service is owed, an idle
transmitter has nothing to send, and the commands that wait are the same (R85, R176; the queue is the model's).
The model's choices in it: notes/assumptions/22.md, notes/assumptions/23.md. -/
def Obligations.EveryCommandCompletes : Prop :=
  ∀ (c : Instr) (s : State), ∃ t, exec c s = .next t ∧ t.gat.serviceDue = false ∧
    (t.svl.tx = none → t.svl.reply = none ∧ t.svl.events = []) ∧ t.pending = s.pending

/-- While the lock level is LOCKED no step but a full reset changes a configuration record, the lock level among them (R164,
R165). -/
def Obligations.LockedFreezesConfiguration : Prop :=
  ∀ s t : State, s.cfg.lock = .locked → s.pending.head? ≠ some .fullReset → step s = .next t → SameConfig s t

/-- Every step keeps the valve law of every chamber (R20). -/
def Obligations.ValveLawKept : Prop := ∀ s t : State, ValveLaw s → step s = .next t → ValveLaw t

/-- Every step keeps the bounds of the request buffer, the event queue, the report queues and the urgent queue, and that the
transaction in flight is one of those that have been built (R39, R149, R177).
The model's choices in it: notes/assumptions/50.md. -/
def Obligations.QueueBoundsKept : Prop := ∀ s t : State, Bounded s → step s = .next t → Bounded t

/-- No step but a full reset lowers a line's consumption total; totals stay within 48 bits and remainders below 600,000,000
(R105, R97, R106). -/
def Obligations.TotalsNeverFall : Prop :=
  ∀ s t : State, RemaindersLow s → (∀ l : Line, (s.ln l).total ≤ Config.totalMax) → s.pending.head? ≠ some .fullReset →
    step s = .next t →
    RemaindersLow t ∧ ∀ l : Line, (s.ln l).total ≤ (t.ln l).total ∧ (t.ln l).total ≤ Config.totalMax

/-- Every step keeps the foreline law: one holder, and only the holder's valves open outside HANDOVER (R58). -/
def Obligations.ForelineLawKept : Prop := ∀ s t : State, ForelineLaw s → step s = .next t → ForelineLaw t

/-- Every step keeps the chamber law of all chambers (R1, R9, R11, R16, R21, R35, R41, R87). -/
def Obligations.ChamberLawKept : Prop :=
  ∀ s t : State, (∀ c : Chamber, ChamberLaw s c) → step s = .next t → ∀ c : Chamber, ChamberLaw t c

/-- The state after reset meets every invariant, and the valve law gives R20's law in its own words.
The model's choices in it: notes/assumptions/24.md. -/
def Obligations.InvariantsAtReset : Prop :=
  ValveLaw State.reset ∧ Bounded State.reset ∧ RemaindersLow State.reset ∧ ForelineLaw State.reset ∧
    (∀ c : Chamber, ChamberLaw State.reset c) ∧ CapacityLaw State.reset ∧ ∀ s : State, ValveLaw s → ValvesApart s

/-! ## Requests that read (R172, R179, R109, R40) -/

/-- IDENT, RDCFG and TOTL answer what they are asked and change nothing else; an RDCFG of a record that does not exist, a
chamber input of chamber 0 among them, gives BAD_TARGET, and the chamber byte of a tool input is not tested (R179, R172, R109).
The model's choices in it: notes/assumptions/17.md, notes/assumptions/18.md, notes/assumptions/32.md. -/
def Obligations.ReadingRequestsAnswer : Prop :=
  (∀ s f, Served s → Asks s .ident f →
    exec .ident s = .next (s.modSvl (Svl.answered f (.ack
      ([0x0D#8, 0x06#8, 0x00#8, 0x6C#8, 1#8, 6#8, 12#8, 96#8] ++ u32 (timeTag s)))))) ∧
  (∀ s f, Served s → Asks s .rdcfg f → ∀ x : Byte,
    (∀ l : Line, f.body = u8 0 ++ u8 (l.val + 1) ++ [x] →
      exec .rdcfg s = .next (s.modSvl (Svl.answered f
        (match s.cfg.lines.look l with
          | none => .nak .notConfigured
          | some r => .ack (lineCfgBytes s l r))))) ∧
    (∀ i : GasClass, f.body = u8 1 ++ u8 i.val ++ [x] →
      exec .rdcfg s = .next (s.modSvl (Svl.answered f (.ack (matrixRow s i))))) ∧
    (∀ c : Chamber, f.body = u8 2 ++ u8 (c.val + 1) ++ [x] →
      exec .rdcfg s = .next (s.modSvl (Svl.answered f (.ack (paramBytes (s.cfg.chambers.look c)))))) ∧
    (∀ (c : Chamber) (k : Channel), f.body = u8 3 ++ u8 (c.val + 1) ++ u8 (k.val + 1) →
      exec .rdcfg s = .next (s.modSvl (Svl.answered f (.ack (mapBytes ((s.cfg.maps.look c).look k)))))) ∧
    (∀ e : EntryIx, f.body = u8 4 ++ u8 e.val ++ [x] →
      exec .rdcfg s = .next (s.modSvl (Svl.answered f (.ack (pollBytes (s.cfg.poll.look e)))))) ∧
    (∀ y : Byte, f.body = u8 5 ++ [y, x] →
      exec .rdcfg s = .next (s.modSvl (Svl.answered f (.ack (forelineBytes s))))) ∧
    (∀ i : Input, f.body = u8 6 ++ u8 (inputCode i).1 ++ u8 (inputCode i).2 →
      exec .rdcfg s = .next (s.modSvl (Svl.answered f (.ack (u32 (s.cfg.qualMs.look (inputIx i))))))) ∧
    (∀ k y : Byte, 6 < k.toNat → f.body = [k, y, x] → Refuses .rdcfg s f .badValue) ∧
    (∀ k y : Byte, f.body = [k, y, x] →
      (k.toNat = 0 ∧ (y.toNat = 0 ∨ 12 < y.toNat) ∨ k.toNat = 1 ∧ 7 < y.toNat ∨ k.toNat = 2 ∧ (y.toNat = 0 ∨ 6 < y.toNat) ∨
        k.toNat = 3 ∧ (y.toNat = 0 ∨ 6 < y.toNat ∨ x.toNat = 0 ∨ 8 < x.toNat) ∨ k.toNat = 4 ∧ 95 < y.toNat ∨
        k.toNat = 6 ∧ (10 < y.toNat ∨ 8 ≤ y.toNat ∧ (x.toNat = 0 ∨ 6 < x.toNat))) → Refuses .rdcfg s f .badTarget) ∧
    (∀ i : Input, (inputCode i).1 < 8 → f.body = u8 6 ++ u8 (inputCode i).1 ++ [x] →
      exec .rdcfg s = .next (s.modSvl (Svl.answered f (.ack (u32 (s.cfg.qualMs.look (inputIx i)))))))) ∧
  (∀ s f, Served s → Asks s .totl f →
    (∀ l : Line, f.body = u8 (l.val + 1) →
      exec .totl s = .next (s.modSvl (Svl.answered f (.ack (u32 (timeTag s) ++ totalBytes s l))))) ∧
    (f.body = u8 0 →
      exec .totl s = .next (s.modSvl (Svl.answered f (.ack (u32 (timeTag s) ++ (allIx 12).flatMap (totalBytes s)))))) ∧
    (∀ n : Byte, 12 < n.toNat → f.body = [n] → Refuses .totl s f .badTarget))

/-- STAT answers one page with its head, clearing link-fault and events-lost, or refuses a target or page that does not exist;
RPT takes the oldest report of a chamber's queue, or is refused on an empty queue. Neither changes anything else (R40, R177,
R179).
The model's choices in it: notes/assumptions/11.md, notes/assumptions/18.md, notes/assumptions/19.md, notes/assumptions/20.md,
notes/assumptions/24.md, notes/assumptions/25.md, notes/assumptions/32.md, notes/assumptions/40.md, notes/assumptions/42.md,
notes/assumptions/43.md, notes/assumptions/45.md, notes/assumptions/47.md, notes/assumptions/49.md, notes/assumptions/52.md. -/
def Obligations.StatusAndReportRequests : Prop :=
  (∀ (s : State) (f : Frame) (target page : Byte), Served s → Asks s .stat f → f.body = [target, page] →
    ((target.toNat = 0 ∧ page.toNat ≤ 7 ∨ 1 ≤ target.toNat ∧ target.toNat ≤ 6 ∧ page.toNat ≤ 1) →
      ∃ data, statPage s target.toNat page.toNat = some data ∧
        exec .stat s = .next ((s.modSvl (fun v => { v with linkFault := false, eventsLost := false })).modSvl
          (Svl.answered f (.ack (statHead s target.toNat page.toNat ++ data))))) ∧
    (¬(target.toNat = 0 ∧ page.toNat ≤ 7 ∨ 1 ≤ target.toNat ∧ target.toNat ≤ 6 ∧ page.toNat ≤ 1) →
      Refuses .stat s f .badTarget)) ∧
  (∀ (s : State) (f : Frame), Served s → Asks s .rpt f →
    (∀ (c : Chamber) (r : Report) (rest : List Report), f.body = u8 (c.val + 1) → (s.ch c).reports = r :: rest →
      exec .rpt s = .next ((s.modCh c (fun q => { q with reports := rest })).modSvl
        (Svl.answered f (.ack (reportBody c r))))) ∧
    (∀ c : Chamber, f.body = u8 (c.val + 1) → (s.ch c).reports = [] → Refuses .rpt s f .queueEmpty) ∧
    (∀ n : Byte, n.toNat = 0 ∨ 6 < n.toNat → f.body = [n] → Refuses .rpt s f .badTarget))

/-! ## EVMSK, MARK, CFGLK (R165, R178) -/

/-- EVMSK sets the mask to the seven flags it carries; MARK appends its event whatever the mask, or is refused on a full queue
with events-lost set (R178).
The model's choices in it: notes/assumptions/18.md. -/
def Obligations.MaskAndMarkRequests : Prop :=
  (∀ (s : State) (f : Frame) (b : Byte), Served s → Asks s .evmsk f → f.body = [b] →
    ∃ m : Table Bool 7, (∀ i : Fin 7, m.look i = b.toNat.testBit i.val) ∧
      exec .evmsk s = .next ((s.modSvl (fun v => { v with mask := m })).modSvl (Svl.answered f (.ack [b &&& 0x7F#8])))) ∧
  (∀ (s : State) (f : Frame) (n : Nat), Served s → Asks s .mark f → n < 4294967296 → f.body = u32 n →
    (s.svl.events.length < Config.eventQueueSize →
      exec .mark s = .next ((s.modSvl (fun v => { v with events := v.events ++ [{ tag := timeTag s, event := .mark n }] })).modSvl
        (Svl.answered f (.ack (u32 (timeTag s)))))) ∧
    (Config.eventQueueSize ≤ s.svl.events.length →
      exec .mark s = .next ((s.modSvl (fun v => { v with eventsLost := true })).modSvl (Svl.answered f (.nak .queueFull)))))

/-- CFGLK follows R165's table: OPEN accepts every level, GUARDED while CFG_PROTECT is qualified released, LOCKED none; a value
that is no level is refused with BAD_VALUE.
The model's choices in it: notes/assumptions/32.md. -/
def Obligations.LockLevelTable : Prop :=
  ∀ (s : State) (f : Frame), Served s → Asks s .cfglk f →
    (∀ l : Lock, f.body = u8 l.code →
      (s.cfg.lock = .open ∨ s.cfg.lock = .guarded ∧ (s.inp .cfgProtect).qual = some false →
        exec .cfglk s = .next ((s.modCfg (fun g => { g with lock := l })).modSvl (Svl.answered f (.ack (u8 l.code))))) ∧
      (s.cfg.lock = .locked ∨ s.cfg.lock = .guarded ∧ (s.inp .cfgProtect).qual ≠ some false →
        Refuses .cfglk s f .locked)) ∧
    (∀ n : Byte, 2 < n.toNat → f.body = [n] → Refuses .cfglk s f .badValue)

/-! ## Configuration writes (chapter 11, R72, R142, R162) -/

/-- CFGCX sets both entries of a pair of classes and no other; an incompatible pair with class 0 or of one class is refused,
as is a value that is no mark (R168).
The model's choices in it: notes/assumptions/32.md. -/
def Obligations.CompatibilityPairWritten : Prop :=
  ∀ (s : State) (f : Frame) (i j : GasClass) (v : Byte), Served s → Asks s .cfgcx f →
    f.body = u8 i.val ++ u8 j.val ++ [v] →
    (gateOpen s = true → (v = 0#8 ∨ v = 1#8 ∧ i ≠ j ∧ i ≠ 0 ∧ j ≠ 0) →
      ∃ m : Table (Table Bool 8) 8,
        (∀ a b : GasClass, (m.look a).look b =
          if (a = i ∧ b = j) ∨ (a = j ∧ b = i) then decide (v = 0#8) else compatible s a b) ∧
        exec .cfgcx s = .next ((s.modCfg (fun g => { g with matrix := m })).modSvl
          (Svl.answered f (.ack (u8 i.val ++ u8 j.val ++ [v]))))) ∧
    (¬(v = 0#8 ∨ v = 1#8 ∧ i ≠ j ∧ i ≠ 0 ∧ j ≠ 0) → Refuses .cfgcx s f .badValue)

/-- CFGMAP writes the channel map entry of an OFFLINE chamber and clears the channel's last-reading time and deviation timer;
a chamber that is not OFFLINE gives STATE, a line bound to another channel of the chamber DUPLICATE (R104, R171).
The model's choices in it: notes/assumptions/17.md. -/
def Obligations.ChannelMapWritten : Prop :=
  ∀ (s : State) (f : Frame) (c : Chamber) (k : Channel) (m : MapEntry), Served s → Asks s .cfgmap f →
    f.body = u8 (c.val + 1) ++ u8 (k.val + 1) ++ mapBytes m →
    10 ≤ m.fs → m.fs ≤ 20000 → m.floor ≤ 500 → 1 ≤ m.ramp → m.ramp ≤ 10000 → gateOpen s = true →
    ((s.ch c).state ≠ .offline → Refuses .cfgmap s f .state) ∧
    ((s.ch c).state = .offline → (∃ j : Channel, j ≠ k ∧ m.line ≠ none ∧ ((s.cfg.maps.look c).look j).line = m.line) →
      Refuses .cfgmap s f .duplicate) ∧
    ((s.ch c).state = .offline → (∀ j : Channel, j ≠ k → m.line ≠ none → ((s.cfg.maps.look c).look j).line ≠ m.line) →
      exec .cfgmap s = .next
        (((s.modCfg (fun g => { g with maps := g.maps.put c ((g.maps.look c).put k m) })).modChan c k
          (fun x => { x with lastTime := none, deviation := none })).modSvl (Svl.answered f (.ack []))))

/-- CFGFL writes the four foreline settings and CFGIQ the qualification time of one input or of a chamber input of all six
chambers; values out of range, and a chain order that repeats or omits a chamber or names none, are refused with BAD_VALUE (R72,
R162).
The model's choices in it: notes/assumptions/17.md. -/
def Obligations.ForelineAndInputSettingsWritten : Prop :=
  (∀ (s : State) (f : Frame) (chain : List Chamber) (limit resume travel : Nat), Served s → Asks s .cfgfl f →
    chain.length = 6 → chain.Nodup → limit < 4294967296 → resume < 4294967296 → travel < 65536 →
    f.body = chain.flatMap (fun c => u8 (c.val + 1)) ++ u32 limit ++ u32 resume ++ u16 travel →
    ((10000 ≤ limit ∧ limit ≤ 10000000 ∧ 1000 ≤ resume ∧ resume ≤ 9999999 ∧ resume < limit ∧ 20 ≤ travel ∧ travel ≤ 2000) →
      gateOpen s = true →
      exec .cfgfl s = .next ((s.modCfg (fun g =>
        { g with chain := chain, backingLimit := limit, resumeLevel := resume, pumpTravel := travel })).modSvl
          (Svl.answered f (.ack [])))) ∧
    (¬(10000 ≤ limit ∧ limit ≤ 10000000 ∧ 1000 ≤ resume ∧ resume ≤ 9999999 ∧ resume < limit ∧ 20 ≤ travel ∧ travel ≤ 2000) →
      Refuses .cfgfl s f .badValue)) ∧
  (∀ (s : State) (f : Frame), Served s → Asks s .cfgfl f →
    (∀ (chain : List Chamber) (rest : List Byte), chain.length = 6 → ¬chain.Nodup →
      f.body = chain.flatMap (fun c => u8 (c.val + 1)) ++ rest → Refuses .cfgfl s f .badValue) ∧
    ((∃ b ∈ f.body.take 6, b.toNat = 0 ∨ 6 < b.toNat) → Refuses .cfgfl s f .badValue)) ∧
  (∀ (s : State) (f : Frame) (ms : Nat), Served s → Asks s .cfgiq f → ms < 4294967296 →
    (∀ i : Input, f.body = u8 (inputCode i).1 ++ u8 (inputCode i).2 ++ u32 ms →
      (1 ≤ ms → ms ≤ 15 → gateOpen s = true →
        exec .cfgiq s = .next ((s.modCfg (fun g => { g with qualMs := g.qualMs.put (inputIx i) ms })).modSvl
          (Svl.answered f (.ack [])))) ∧
      (ms = 0 ∨ 15 < ms → Refuses .cfgiq s f .badValue)) ∧
    (∀ n : Byte, 8 ≤ n.toNat → n.toNat ≤ 10 → f.body = [n] ++ u8 0 ++ u32 ms → 1 ≤ ms → ms ≤ 15 → gateOpen s = true →
      ∃ q : Table Nat 26,
        (∀ i : Input, q.look (inputIx i) = if (inputCode i).1 = n.toNat then ms else s.cfg.qualMs.look (inputIx i)) ∧
        exec .cfgiq s = .next ((s.modCfg (fun g => { g with qualMs := q })).modSvl (Svl.answered f (.ack [])))))

/-- CFGPT with every chamber OFFLINE writes one poll entry: its schedule is loaded, its instrument state is UNKNOWN, it leaves
the urgent queue and the frame list, and its transaction in flight is not judged; no other entry changes (R142, R143).
The model's choices in it: notes/assumptions/17.md, notes/assumptions/18.md. -/
def Obligations.PollEntryWritten : Prop :=
  ∀ (s : State) (f : Frame) (e : EntryIx) (p : PollCfg), Served s → Asks s .cfgpt f →
    p.address < 256 → p.owner < 256 → p.role < 256 → p.period < 65536 →
    f.body = u8 e.val ++ pollBytes p → pollInRange p = true → gateOpen s = true →
    (allOffline s = true → pollUnique s e p = true →
      ∃ t, exec .cfgpt s = .next t ∧ Answered s t f (.ack []) ∧
        t.cfg = { s.cfg with poll := s.cfg.poll.put e p } ∧
        t.pollDyn e =
          { countdown := if p.used && s.cfg.enabled then 1 + e.val % p.period else (s.pollDyn e).countdown
            due := false, late := 0, state := .unknown, misses := 0 } ∧
        (∀ x : EntryIx, x ≠ e → t.pollDyn x = s.pollDyn x) ∧
        e ∉ t.ilc.urgent ∧ e ∉ t.ilc.frameRest ∧
        (∀ x : Txn, t.ilc.inFlight = some x → x.entry = e → x.discarded = true) ∧
        t.gat = s.gat ∧ t.iiu = s.iiu ∧ t.now = s.now) ∧
    (allOffline s = false → Refuses .cfgpt s f .state) ∧
    (allOffline s = true → pollUnique s e p = false → Refuses .cfgpt s f .duplicate)

/-- CFGCH writes a chamber's parameters and nothing else, unless a running rough timer has reached the new rough timeout: then the
chamber is faulted with ROUGH_TIMEOUT; or a running deviation timer has reached the new flow fault time: then a RUNNING or HELD
chamber is faulted with FLOW_DEVIATION, and elsewhere the timer stops and does nothing else: R108 says so of FAULTED, and for
READY and OFFLINE it is the model's choice, notes/assumptions/28.md. A field out of range, an ordering or a purge line that is
not of class 0 gives BAD_VALUE (R47, R108, R169, R170).
The model's choices in it: notes/assumptions/7.md, notes/assumptions/8.md, notes/assumptions/17.md, notes/assumptions/28.md,
notes/assumptions/35.md, notes/assumptions/53.md. -/
def Obligations.ChamberParametersWritten : Prop :=
  ∀ (s : State) (f : Frame) (c : Chamber) (p : ChamberParams), Served s → Asks s .cfgch f →
    bodyChamber f.body = some c → paramsOf f.body = p →
    (paramsInRange f.body = true → paramsOrdered p = true → purgeLineOk s p = true → gateOpen s = true →
      let u := s.modCfg (fun g => { g with chambers := g.chambers.put c p })
      ((s.ch c).running = true → roughDue u c = false) → (∀ k : Channel, deviationDue u c k = false) →
      exec .cfgch s = .next (u.modSvl (Svl.answered f (.ack [])))) ∧
    (paramsInRange f.body = true → paramsOrdered p = true → purgeLineOk s p = true → gateOpen s = true →
      let u := s.modCfg (fun g => { g with chambers := g.chambers.put c p })
      (s.ch c).running = true → roughDue u c = true →
      ∃ t, exec .cfgch s = .next t ∧ Answered s t f (.ack []) ∧ FaultedNow u t c .roughTimeout) ∧
    (paramsInRange f.body = true → paramsOrdered p = true → purgeLineOk s p = true → gateOpen s = true →
      let u := s.modCfg (fun g => { g with chambers := g.chambers.put c p })
      ((s.ch c).running = true → roughDue u c = false) → (∃ k : Channel, deviationDue u c k = true) →
      ∃ t, exec .cfgch s = .next t ∧ Answered s t f (.ack []) ∧
        ((s.ch c).state = .running ∨ (s.ch c).state = .held → FaultedNow u t c .flowDeviation) ∧
        ((s.ch c).state ≠ .running → (s.ch c).state ≠ .held → FrameOf c u t ∧ t.csq = s.csq ∧
          ∀ k : Channel, t.chan c k = { s.chan c k with
            deviation := if deviationDue u c k then none else (s.chan c k).deviation })) ∧
    ((paramsInRange f.body && paramsOrdered p && purgeLineOk s p) = false → Refuses .cfgch s f .badValue)

/-- CFGLN writes a line record; the line takes the state R77 gives, with a LINESTATE where it enters one; its totals and every
other line stay. A line being pumped out gives STATE, a channel bound to it in a chamber that is not OFFLINE gives IN_USE, a
class above 0 for a purge line BAD_VALUE (R77, R166, R167).
The model's choices in it: notes/assumptions/36.md. -/
def Obligations.LineRecordWritten : Prop :=
  ∀ (s : State) (f : Frame) (l : Line) (r : LineCfg), Served s → Asks s .cfgln f →
    r.gasCode < 65536 → 100 ≤ r.gcf → r.gcf ≤ 2000 → r.capacity ≤ 50000 → 10 ≤ r.pumpS → r.pumpS ≤ 600 →
    f.body = u8 (l.val + 1) ++ u16 r.gasCode ++ u8 r.cls.val ++ u16 r.gcf ++ u16 r.capacity ++ u8 (r.cabinet.val + 1)
      ++ u16 r.pumpS →
    (isPurgeLine s l = true → r.cls ≠ 0 → Refuses .cfgln s f .badValue) ∧
    (isPurgeLine s l = false ∨ r.cls = 0 → gateOpen s = true →
      (pumping s l = true → Refuses .cfgln s f .state) ∧
      (pumping s l = false → boundOnline s l = true → Refuses .cfgln s f .inUse) ∧
      (pumping s l = false → boundOnline s l = false →
        ∃ t, exec .cfgln s = .next t ∧
          Answered s t f (.ack (u8 (l.val + 1) ++ u8 ((s.ln l).state.written (cabinetOk s r.cabinet)).code)) ∧
          t.cfg = { s.cfg with lines := s.cfg.lines.put l (some r) } ∧
          t.ln l = { s.ln l with state := (s.ln l).state.written (cabinetOk s r.cabinet) } ∧
          (∀ m : Line, m ≠ l → t.ln m = s.ln m) ∧ t.iiu = s.iiu ∧ t.ilc.poll = s.ilc.poll ∧ t.now = s.now ∧
          (s.gat.queue = [] → (s.ln l).state.written (cabinetOk s r.cabinet) ≠ (s.ln l).state →
            Posted s t (.linestate l ((s.ln l).state.written (cabinetOk s r.cabinet)) (allocated s l) .config)) ∧
          (s.gat.queue = [] → t.csq = s.csq ∧ t.fcu = s.fcu ∧ t.fla = s.fla)))

/-- A configuration request that the gate does not pass is refused, whatever its body, and changes nothing else; once the tests
that stand before the gate's pass, the refusal is LOCKED: for CFGLN, CFGCX, CFGCH, CFGMAP, CFGPT, CFGFL, CFGIQ and both
operations of PTEN by R164, for a CFGLK of a lock level by R165's table (R164, R165).
The model's choices in it: notes/assumptions/17.md, notes/assumptions/18.md, notes/assumptions/32.md. -/
def Obligations.ClosedGateRefusesEveryWrite : Prop :=
  ∀ (s : State) (f : Frame), Served s → gateOpen s = false →
    (∀ x ∈ [(Instr.cfgln, ReqKind.cfgln), (.cfgcx, .cfgcx), (.cfgch, .cfgch), (.cfgmap, .cfgmap), (.cfgpt, .cfgpt),
        (.cfgfl, .cfgfl), (.cfgiq, .cfgiq), (.cfglk, .cfglk)],
      Asks s x.2 f → ∃ n, Refuses x.1 s f n) ∧
    (Asks s .cfgln f → ∀ (l : Line) (r : LineCfg), oneBased 12 (field f.body 0 1) = some l → lineCfgOf f.body = some r →
      (isPurgeLine s l = false ∨ r.cls = 0) → Refuses .cfgln s f .locked) ∧
    (Asks s .cfgcx f → ∀ (i j : GasClass) (v : Byte), f.body = u8 i.val ++ u8 j.val ++ [v] →
      (v = 0#8 ∨ v = 1#8 ∧ i ≠ j ∧ i ≠ 0 ∧ j ≠ 0) → Refuses .cfgcx s f .locked) ∧
    (Asks s .cfgch f → (bodyChamber f.body).isSome = true → paramsInRange f.body = true → paramsOrdered (paramsOf f.body) = true →
      purgeLineOk s (paramsOf f.body) = true → Refuses .cfgch s f .locked) ∧
    (Asks s .cfgmap f → ∀ (c : Chamber) (k : Channel) (m : MapEntry), f.body = u8 (c.val + 1) ++ u8 (k.val + 1) ++ mapBytes m →
      10 ≤ m.fs → m.fs ≤ 20000 → m.floor ≤ 500 → 1 ≤ m.ramp → m.ramp ≤ 10000 → Refuses .cfgmap s f .locked) ∧
    (Asks s .cfgpt f → field f.body 0 1 ≤ 95 → pollInRange (pollOf f.body) = true → Refuses .cfgpt s f .locked) ∧
    (Asks s .cfgfl f → ∀ (chain : List Chamber) (limit resume travel : Nat), chain.length = 6 → chain.Nodup →
      f.body = chain.flatMap (fun c => u8 (c.val + 1)) ++ u32 limit ++ u32 resume ++ u16 travel →
      10000 ≤ limit → limit ≤ 10000000 → 1000 ≤ resume → resume < limit → 20 ≤ travel → travel ≤ 2000 →
      Refuses .cfgfl s f .locked) ∧
    (Asks s .cfgiq f → inputsOf (field f.body 0 1) (field f.body 1 1) ≠ [] → 1 ≤ field f.body 2 4 → field f.body 2 4 ≤ 15 →
      Refuses .cfgiq s f .locked) ∧
    (Asks s .cfglk f → ∀ l : Lock, f.body = u8 l.code → Refuses .cfglk s f .locked) ∧
    (Asks s .pten f → (field f.body 0 1 = 0 → ∃ n, Refuses .ptenEnable s f n) ∧
      (field f.body 0 1 = 0 → 8 ≤ field f.body 1 1 → field f.body 1 1 ≤ 64 → 100 ≤ field f.body 2 2 → field f.body 2 2 ≤ 2000 →
        Refuses .ptenEnable s f .locked) ∧
      (field f.body 0 1 = 1 → Refuses .ptenDisable s f .locked))

/-! ## Chamber requests (chapters 1 to 3) -/

/-- ONLN brings an OFFLINE chamber to READY with vacuum status UNKNOWN, no cause and no last-reading times, and posts CHSTATE;
its refusals stand in R4's order (R4, R104).
The model's choices in it: notes/assumptions/17.md. -/
def Obligations.ChamberComesOnline : Prop :=
  ∀ (s : State) (f : Frame) (c : Chamber), Served s → Asks s .onln f → f.body = u8 (c.val + 1) →
    ((s.ch c).state ≠ .offline → Refuses .onln s f .state) ∧
    ((s.ch c).state = .offline → (s.cfg.enabled = false ∨ emoAsserted s = true ∨ anyFailed s c = true) →
      Refuses .onln s f .state) ∧
    ((s.ch c).state = .offline → s.cfg.enabled = true → emoAsserted s = false → anyFailed s c = false →
      ((findEntry s (.chamber c) .gaugeWide = none ∨ findEntry s (.chamber c) .throttle = none) →
        Refuses .onln s f .notConfigured) ∧
      ((findEntry s (.chamber c) .gaugeWide).isSome = true → (findEntry s (.chamber c) .throttle).isSome = true →
        ∃ t, exec .onln s = .next t ∧ Answered s t f (.ack []) ∧ FrameOf c s t ∧
          t.ch c = { s.ch c with state := .ready, phase := .none, vac := .unknown, cause := none } ∧
          (∀ k : Channel, t.chan c k = { s.chan c k with lastTime := none }) ∧
          Posted s t (.chstate c .ready .none .unknown) ∧ t.gat = s.gat ∧ t.fla = s.fla ∧ t.ilc = s.ilc))

/-- OFFLN takes a READY or FAULTED chamber OFFLINE with its valves commanded closed, its flows, throttle and generators off and
no cause; elsewhere it is refused with STATE (R5, R100, R107, R112).
The model's choices in it: notes/assumptions/7.md, notes/assumptions/17.md. -/
def Obligations.ChamberGoesOffline : Prop :=
  ∀ (s : State) (f : Frame) (c : Chamber), Served s → Asks s .offln f → f.body = u8 (c.val + 1) →
    (((s.ch c).state = .ready ∨ (s.ch c).state = .faulted) →
      ∃ t, exec .offln s = .next t ∧ Answered s t f (.ack []) ∧ FrameOf c s t ∧ SensedAs s t c ∧
        (t.ch c).state = .offline ∧ (t.ch c).phase = .none ∧ (t.ch c).vac = .unknown ∧ (t.ch c).cause = none ∧
        (∀ v : ChamberValve, (t.ch c).valve v = ((s.ch c).valve v).commandClose s.now (travelOf s c v)) ∧
        (t.ch c).rfEn = false ∧ (t.ch c).source = 0 ∧ (t.ch c).bias = 0 ∧ (t.ch c).throttle = .open ∧
        (∀ k : Channel, (t.chan c k).target = 0 ∧ (t.chan c k).current = 0 ∧ (t.chan c k).deviation = none) ∧
        (t.ch c).reports = (s.ch c).reports ∧ Posted s t (.chstate c .offline .none .unknown) ∧
        t.gat = s.gat ∧ t.fla = s.fla) ∧
    ((s.ch c).state ≠ .ready → (s.ch c).state ≠ .faulted → Refuses .offln s f .state)

/-- In a RUNNING chamber an accepted STEP is placed in the slot at the load pointer, the pointer moves on, and nothing else
changes; the ACK carries the step id, the slot and the warnings (R27, R35).
The model's choices in it: notes/assumptions/43.md, notes/assumptions/51.md. -/
def Obligations.StepLoadsBehindRunningStep : Prop :=
  ∀ (s : State) (f : Frame) (c : Chamber) (k : Kind), Served s → Asks s .step f →
    stepLengthOk f.body = true → bodyChamber f.body = some c → stepKindOf f.body = some k →
    (s.ch c).state = .running → (s.ch c).slot (s.ch c).loadPtr = none → stepRefusal s c k f.body = none →
    exec .step s = .next ((s.modCh c (fun q =>
      { q.setSlot q.loadPtr (some (storedRecord s c k f.body)) with loadPtr := q.loadPtr.other })).modSvl
        (Svl.answered f (.ack (u16 (storedRecord s c k f.body).id ++ u8 (s.ch c).loadPtr.code
          ++ u8 (storedRecord s c k f.body).warnings.bits))))

/-- STEP's refusals stand in R28's order, and a refused STEP changes nothing else: length, chamber, state, room, kind and end
mode, then tests 6 to 12: the first of them that fails gives its own code. A STEP that passes them all is accepted (R28). -/
def Obligations.RefusedStepChangesNothing : Prop :=
  ∀ (s : State) (f : Frame), Served s → Asks s .step f →
    (stepLengthOk f.body = false → Refuses .step s f .badLength) ∧
    (stepLengthOk f.body = true → bodyChamber f.body = none → Refuses .step s f .badTarget) ∧
    (∀ c : Chamber, stepLengthOk f.body = true → bodyChamber f.body = some c →
      ((s.ch c).state = .offline ∨ (s.ch c).state = .faulted → Refuses .step s f .state) ∧
      ((s.ch c).state = .ready ∨ (s.ch c).state = .running ∨ (s.ch c).state = .held →
        ((s.ch c).slot (s.ch c).loadPtr ≠ none → Refuses .step s f .slotsFull) ∧
        ((s.ch c).slot (s.ch c).loadPtr = none →
          (stepKindOf f.body = none → Refuses .step s f .badValue) ∧
          (∀ k n, stepKindOf f.body = some k → stepRefusal s c k f.body = some n → Refuses .step s f n) ∧
          (∀ k, stepKindOf f.body = some k →
            (∀ before test code after, stepTests s c k f.body = before ++ (test, code) :: after → (∀ x ∈ before, x.1) → ¬test →
              Refuses .step s f code) ∧
            ((∀ x ∈ stepTests s c k f.body, x.1) → stepRefusal s c k f.body = none ∧
              ∃ t data, exec .step s = .next t ∧ Answered s t f (.ack data))))))

/-- A STEP accepted in READY or HELD starts at once, from READY with no flows, from HELD with its flows carried over. With the lid
open it fails with LID, a process step without HIGHVAC with NOT_READY. A process step fails with LINE_LOST, or waits in ADMIT, or
is admitted at once. A PUMPDOWN step crosses over, or requests the foreline. A VENT step waits in VENT_ISOLATE, or, with the valves
closed, enters VENTING with the vent valve open and its timer loaded. STEPBEGIN is posted first; a step that fails at its start
posts STEPEND, FAULT and CHSTATE behind it (R6, R9, R14, R15, R27, R42, R43, R55, R56, R86, R87, R88).
The model's choices in it: notes/assumptions/7.md, notes/assumptions/8.md, notes/assumptions/9.md, notes/assumptions/11.md,
notes/assumptions/13.md, notes/assumptions/38.md, notes/assumptions/39.md, notes/assumptions/43.md, notes/assumptions/51.md. -/
def Obligations.StepStartsInReadyChamber : Prop :=
  ∀ (s : State) (f : Frame) (c : Chamber) (k : Kind), Served s → Asks s .step f →
    stepLengthOk f.body = true → bodyChamber f.body = some c → stepKindOf f.body = some k →
    ((s.ch c).state = .ready ∨ (s.ch c).state = .held) → (s.ch c).slotA = none → (s.ch c).slotB = none →
    (s.ch c).loadPtr = (s.ch c).runPtr → stepRefusal s c k f.body = none →
    ∃ t, exec .step s = .next t ∧ FrameOf c s t ∧
      Answered s t f (.ack (u16 (storedRecord s c k f.body).id ++ u8 (s.ch c).loadPtr.code
        ++ u8 (storedRecord s c k f.body).warnings.bits)) ∧
      (lidClosed s c = false →
        FaultedWith t c .lid ∧ SensedAs s t c ∧ ReportedAs t c (storedRecord s c k f.body).id .lid ∧
        PostedFirst s t [.stepbegin c (storedRecord s c k f.body).id k, .stepend c (storedRecord s c k f.body).id .lid,
          .fault c .lid, .chstate c .faulted .none (vacAfterFault s c)]) ∧
      (lidClosed s c = true → k.isProcess = true → (s.ch c).vac ≠ .highvac →
        FaultedWith t c .notReady ∧ SensedAs s t c ∧ ReportedAs t c (storedRecord s c k f.body).id .notReady ∧
        PostedFirst s t [.stepbegin c (storedRecord s c k f.body).id k, .stepend c (storedRecord s c k f.body).id .notReady,
          .fault c .notReady, .chstate c .faulted .none (vacAfterFault s c)]) ∧
      PostedFirst s t [.stepbegin c (storedRecord s c k f.body).id k] ∧
      (lidClosed s c = true → k = .vent → (∀ v : ChamberValve, ((s.ch c).valve v).isClosed = true) → Out s c →
        (t.ch c).state = .running ∧ (t.ch c).phase = .venting ∧ (t.ch c).vac = .unknown ∧ (t.ch c).vent.cmd = true ∧
        (t.ch c).gate = (s.ch c).gate ∧ (t.ch c).holdings = [] ∧ Flowless t c ∧
        (t.ch c).runPtr = (s.ch c).runPtr.other ∧
        ∃ e, (t.ch c).exec = some e ∧ e.record = storedRecord s c k f.body ∧ e.slot = (s.ch c).runPtr ∧
          e.startTag = timeTag s ∧ e.mainAt = some s.now ∧
          e.ventTimer = some (s.now + (s.cfg.chambers.look c).ventTimeoutS * 1000)) ∧
      (Out s c → QueueApart s → StepStarted s t c (storedRecord s c k f.body) ∧ (t.ch c).hold = none ∧
        (t.ch c).runPtr = (s.ch c).runPtr.other ∧
        ∀ e, (t.ch c).exec = some e → e.slot = (s.ch c).runPtr ∧ e.startTag = timeTag s)

/-- A stored step has each field its kind uses as sent where it is in its range, and else at the end of the range it is beyond, and
is in range, where the chamber's limits are themselves ordered; powers are limited from above, and bias is 0 without a BIAS
entry. A change raises the warning of its group, and nothing else does. Of a step that passes R28's tests every entry of a used
set is stored in the order sent, resolved, clipped and with its command and effective flow, and the purge entry beside them;
FLOW_CLAMPED and FLOW_RAISED stand where one of these is clamped or raised (R25, R26, R29, R30, R31, R32, R33). -/
def Obligations.StoredFieldsInRange : Prop :=
  ∀ (s : State) (c : Chamber) (k : Kind) (body : List Byte),
    let r := storedRecord s c k body
    let p := s.cfg.chambers.look c
    let noBias := findEntry s (.chamber c) .bias = none
    r.kind = k ∧ r.id = field body 1 2 ∧
    (k = .pumpdown → 1 ≤ p.crossover → 1 ≤ r.targetA ∧ r.targetA ≤ p.crossover ∧ r.targetA = clip 1 p.crossover (field body 7 4)) ∧
    (k.isProcess = true → p.minControl ≤ p.maxControl → p.minControl ≤ r.targetA ∧ r.targetA ≤ p.maxControl ∧
      r.targetA = clip p.minControl p.maxControl (field body 7 4)) ∧
    (k = .cycle → p.minControl ≤ p.maxControl → p.minControl ≤ r.targetB ∧ r.targetB ≤ p.maxControl ∧
      r.targetB = clip p.minControl p.maxControl (field body 11 4)) ∧
    (k = .stabilize ∨ k = .plasma ∨ k = .cycle → 1 ≤ r.tolerance ∧ r.tolerance ≤ 50 ∧ r.settleMs ≤ 60000 ∧
      r.tolerance = clip 1 50 (field body 15 1) ∧ r.settleMs = clip 0 60000 (field body 16 4)) ∧
    (k = .stabilize ∨ k = .plasma ∨ k = .purge → 100 ≤ r.durationMs ∧ r.durationMs ≤ 3600000 ∧
      r.durationMs = clip 100 3600000 (field body 28 4)) ∧
    (k = .plasma ∨ k = .cycle → r.sourceA ≤ p.sourceMax ∧ r.biasA ≤ p.biasMax ∧ r.arcLimit = field body 52 1 ∧
      r.sourceA = min (field body 20 2) p.sourceMax ∧ (noBias → r.biasA = 0) ∧
      (¬noBias → r.biasA = min (field body 24 2) p.biasMax)) ∧
    (k = .cycle → r.sourceB ≤ p.sourceMax ∧ r.biasB ≤ p.biasMax ∧ r.sourceB = min (field body 22 2) p.sourceMax ∧
      (noBias → r.biasB = 0) ∧ (¬noBias → r.biasB = min (field body 26 2) p.biasMax) ∧
      20 ≤ r.phaseAMs ∧ r.phaseAMs ≤ 60000 ∧ r.phaseAMs = clip 20 60000 (field body 38 4) ∧
      20 ≤ r.phaseBMs ∧ r.phaseBMs ≤ 60000 ∧ r.phaseBMs = clip 20 60000 (field body 42 4) ∧
      r.firstExtMs ≤ 10000 ∧ r.firstExtMs = clip 0 10000 (field body 46 4) ∧
      1 ≤ r.cycleCount ∧ r.cycleCount ≤ 65535 ∧ r.cycleCount = clip 1 65535 (field body 50 2)) ∧
    (k = .plasma → (r.endMode = .endpoint ↔ field body 4 1 = 1) ∧
      (r.endMode = .endpoint → r.maskMs ≤ 600000 ∧ r.maskMs = clip 0 600000 (field body 32 4) ∧
        r.overetchPct ≤ 200 ∧ r.overetchPct = clip 0 200 (field body 36 2))) ∧
    (∀ g ∈ r.entries, g.flow ≤ Config.flowMax) ∧
    (r.warnings.pressureClamped = true ↔
      (k ≠ .vent ∧ r.targetA ≠ field body 7 4) ∨ (k = .cycle ∧ r.targetB ≠ field body 11 4)) ∧
    (r.warnings.powerClamped = true ↔
      (k = .plasma ∨ k = .cycle) ∧ (r.sourceA ≠ field body 20 2 ∨ r.biasA ≠ field body 24 2) ∨
      k = .cycle ∧ (r.sourceB ≠ field body 22 2 ∨ r.biasB ≠ field body 26 2)) ∧
    (r.warnings.timeClamped = true ↔
      (k = .stabilize ∨ k = .plasma ∨ k = .cycle) ∧ r.settleMs ≠ field body 16 4 ∨
      (k = .stabilize ∨ k = .plasma ∨ k = .purge) ∧ r.durationMs ≠ field body 28 4 ∨
      (k = .plasma ∧ r.endMode = .endpoint) ∧ (r.maskMs ≠ field body 32 4 ∨ r.overetchPct ≠ field body 36 2) ∨
      k = .cycle ∧ (r.phaseAMs ≠ field body 38 4 ∨ r.phaseBMs ≠ field body 42 4 ∨ r.firstExtMs ≠ field body 46 4 ∨
        r.cycleCount ≠ field body 50 2)) ∧
    (r.warnings.toleranceClamped = true ↔ (k = .stabilize ∨ k = .plasma ∨ k = .cycle) ∧ r.tolerance ≠ field body 15 1) ∧
    (stepLengthOk body = true → stepRefusal s c k body = none →
      let sent := sentA k body ++ sentB k body ++ sentPurge s c k body
      List.Forall₂ (LoadedAs s c) (sentA k body) r.setA ∧ List.Forall₂ (LoadedAs s c) (sentB k body) r.setB ∧
      List.Forall₂ (LoadedAs s c) (sentPurge s c k body) r.purge.toList ∧
      (r.warnings.flowClamped = true ↔ ∃ x ∈ sent, EntryClamped s c x) ∧
      (r.warnings.flowRaised = true ↔ ∃ x ∈ sent, EntryRaised s c x))

/-- A stored command is R98's: the quotient rounded half up, at most 10,000 with FLOW_CLAMPED, at least the floor with FLOW_RAISED,
0 for a flow of 0, and lowered with FLOW_CLAMPED where it would pass the flow range; it is 0 or at least the floor. Its
effective flow is its share of the full scale rounded up, at most 50,000. A ramp update moves by at most the ramp limit toward
the target, but for the floor and zero snaps: it stays between the current command and the target, moves while they differ,
rests when they agree, and lands on 0 or at least at the floor (R98, R99, R101). -/
def Obligations.FlowArithmeticBounds : Prop :=
  (∀ flow gcf fs floor : Nat, 0 < gcf → 0 < fs → floor ≤ Config.commandMax →
    (storedCommand flow gcf fs floor).1 ≤ Config.commandMax ∧
    effectiveFlow (storedCommand flow gcf fs floor).1 gcf fs ≤ Config.flowMax ∧
    (flow = 0 → (storedCommand flow gcf fs floor).1 = 0)) ∧
  (∀ flow gcf fs floor raw settled : Nat, 100 ≤ gcf → gcf ≤ 2000 → 10 ≤ fs → fs ≤ 20000 → floor ≤ 500 →
    2 * raw * (gcf * fs) ≤ 2 * flow * 1000000 + gcf * fs → 2 * flow * 1000000 + gcf * fs < 2 * (raw + 1) * (gcf * fs) →
    settled = (if flow = 0 then 0 else if 10000 < raw then 10000 else if raw < floor then floor else raw) →
    raw = (flow * 1000000 + gcf * fs / 2) / (gcf * fs) ∧
    storedCommand flow gcf fs floor =
      (if 50000 * 1000000 < settled * gcf * fs then 50000000000 / (gcf * fs) else settled,
        decide (0 < flow ∧ 10000 < raw ∨ 50000 * 1000000 < settled * gcf * fs),
        decide (0 < flow ∧ raw ≤ 10000 ∧ raw < floor)) ∧
    ((storedCommand flow gcf fs floor).1 = 0 ∨ floor ≤ (storedCommand flow gcf fs floor).1) ∧
    (50000 * 1000000 < settled * gcf * fs → 1250 ≤ (storedCommand flow gcf fs floor).1)) ∧
  (∀ cmd gcf fs : Nat, effectiveFlow cmd gcf fs = (cmd * gcf * fs + 999999) / 1000000 ∧
    cmd * gcf * fs ≤ effectiveFlow cmd gcf fs * 1000000 ∧ effectiveFlow cmd gcf fs * 1000000 < cmd * gcf * fs + 1000000) ∧
  (∀ cur target limit floor : Nat, 0 < limit → (target = 0 ∨ floor ≤ target) →
    min cur target ≤ rampStep cur target limit floor ∧ rampStep cur target limit floor ≤ max cur target ∧
    (rampStep cur target limit floor = 0 ∨ floor ≤ rampStep cur target limit floor) ∧
    (cur = target → rampStep cur target limit floor = target) ∧
    (cur ≠ target → rampStep cur target limit floor ≠ cur) ∧
    (rampStep cur target limit floor ≤ cur + limit ∨ rampStep cur target limit floor = floor) ∧
    (cur ≤ rampStep cur target limit floor + limit ∨ rampStep cur target limit floor = 0) ∧
    (∀ n, cur < target → n = min target (cur + limit) → rampStep cur target limit floor = if n < floor then floor else n) ∧
    (∀ n, target < cur → n = max target (cur - limit) → rampStep cur target limit floor = if n < floor then 0 else n))

/-- ABRT ends the executing step of a RUNNING chamber with ABORTED and takes the chamber to READY: rough valves commanded closed,
GATE commanded closed in CROSSOVER and VENT_ISOLATE, VENT in VENTING, and no other valve; the waiting step is flushed with its
report and both slots are free; STEPEND of the one, STEPEND of the other and CHSTATE are posted in this order. It takes a HELD
chamber to READY; in the other states it is refused with STATE (R11, R12, R13, R36).
The model's choices in it: notes/assumptions/7.md, notes/assumptions/8.md, notes/assumptions/17.md. -/
def Obligations.AbortReturnsChamberToReady : Prop :=
  ∀ (s : State) (f : Frame) (c : Chamber), Served s → Asks s .abrt f → f.body = u8 (c.val + 1) →
    (∀ e, (s.ch c).state = .running → (s.ch c).exec = some e →
      ∃ t, exec .abrt s = .next t ∧ Answered s t f (.ack (u8 1 ++ u16 e.record.id)) ∧ FrameOf c s t ∧ EnteredReady t c ∧
        SensedAs s t c ∧ ReportedAs t c e.record.id .aborted ∧
        (t.ch c).vac = vacAfterBreak (s.ch c).vac (s.ch c).phase ∧
        (t.ch c).roughSoft = (s.ch c).roughSoft.commandClose s.now (s.cfg.chambers.look c).roughTravel ∧
        (t.ch c).roughFast = (s.ch c).roughFast.commandClose s.now (s.cfg.chambers.look c).roughTravel ∧
        (t.ch c).gate = (if (s.ch c).phase = .crossover ∨ (s.ch c).phase = .ventIsolate
          then (s.ch c).gate.commandClose s.now (s.cfg.chambers.look c).gateTravel else (s.ch c).gate) ∧
        (t.ch c).vent = (if (s.ch c).phase = .venting
          then (s.ch c).vent.commandClose s.now (s.cfg.chambers.look c).ventTravel else (s.ch c).vent) ∧
        (e.slot = (s.ch c).runPtr.other → (t.ch c).slotA = none ∧ (t.ch c).slotB = none ∧
          (∀ w, (s.ch c).slot (s.ch c).runPtr = some w → FlushedAs s t c w ∧ (t.ch c).loadPtr = (t.ch c).runPtr) ∧
          PostedFirst s t (breakEvents s c .aborted ++ [.chstate c .ready .none (vacAfterBreak (s.ch c).vac (s.ch c).phase)]))) ∧
    ((s.ch c).state = .held →
      ∃ t, exec .abrt s = .next t ∧ Answered s t f (.ack (u8 0 ++ u16 0)) ∧ FrameOf c s t ∧ EnteredReady t c ∧
        SensedAs s t c ∧ (t.ch c).vac = (s.ch c).vac ∧ (t.ch c).reports = (s.ch c).reports ∧
        PostedFirst s t [.chstate c .ready .none (s.ch c).vac]) ∧
    ((s.ch c).state ≠ .running → (s.ch c).state ≠ .held → Refuses .abrt s f .state)

/-- RSUS suspends the roughing of a chamber in WAIT_FORELINE or a roughing phase: rough valves commanded closed, the foreline left,
the rough timer running while a rough valve counts open; in any other phase, or with no step, it is refused with STATE. A valid
FORELINE reading of an entry that is not FAILED sets the backing pause above the limit and clears it below the resume level;
setting it pauses a holder that roughs, its rough valves commanded closed, and the progress of a line that pumps out; clearing
it resumes them; a flag that does not change moves nothing (R47, R48, R49, R64, R66).
The model's choices in it: notes/assumptions/7.md, notes/assumptions/25.md, notes/assumptions/50.md. -/
def Obligations.RoughingSuspended : Prop :=
  (∀ (s : State) (f : Frame) (c : Chamber), Served s → Asks s .rsus f → f.body = u8 (c.val + 1) →
    ((s.ch c).exec = none → Refuses .rsus s f .state) ∧
    ∀ e, (s.ch c).exec = some e →
      ((s.ch c).state = .running → (s.ch c).phase.suspendable = true → c ∉ s.gat.queue →
        ∃ t, exec .rsus s = .next t ∧ Answered s t f (.ack (u16 e.record.id)) ∧ FrameOf c s t ∧ Out t c ∧
          (∀ k : Channel, t.chan c k = s.chan c k) ∧
          t.ch c = { s.ch c with
            phase := .roughSuspended
            exec := some { e with
              paused := none, excursion := none,
              roughSince := if (s.ch c).roughOpen then some (e.roughSince.getD s.now) else e.roughSince }
            roughSoft := (s.ch c).roughSoft.commandClose s.now (s.cfg.chambers.look c).roughTravel
            roughFast := (s.ch c).roughFast.commandClose s.now (s.cfg.chambers.look c).roughTravel }) ∧
      ((s.ch c).state ≠ .running ∨ (s.ch c).phase.suspendable = false → Refuses .rsus s f .state)) ∧
  (∀ (s : State) (bs : BusReply) (x : Txn) (data : List Byte), Served s → GivesReading s bs x .tool .foreline data →
    (s.pollDyn x.entry).state ≠ .failed →
    let p := bytesNat data
    let flag := if s.fla.pause then decide (s.cfg.resumeLevel ≤ p) else decide (s.cfg.backingLimit < p)
    ∃ t, exec (.instrumentReply bs) s = .next t ∧ t.fla.pressure = some p ∧ t.fla.pause = flag ∧
      t.fla.state = s.fla.state ∧ t.fla.holder = s.fla.holder ∧ t.fla.waiting = s.fla.waiting ∧ t.fla.toGat = s.fla.toGat ∧
      (∀ k : Chamber, s.fla.holder ≠ some (.chamber k) → t.ch k = s.ch k) ∧ t.gat = s.gat ∧ t.iiu = s.iiu ∧ t.cfg = s.cfg ∧
      t.now = s.now ∧
      (flag = s.fla.pause → t.fla = { s.fla with pressure := some p } ∧ t.csq = s.csq) ∧
      (∀ (c : Chamber) (e : StepCtx), s.fla.holder = some (.chamber c) → (s.ch c).exec = some e → flag ≠ s.fla.pause →
        t.fla = { s.fla with pressure := some p, pause := flag } ∧
        (∀ sub : SubPhase, flag = true → (s.ch c).inPhase sub.phase = true → t.ch c = { s.ch c with
          phase := .roughPaused
          exec := some { e with paused := some sub, excursion := none }
          roughSoft := (s.ch c).roughSoft.commandClose s.now (s.cfg.chambers.look c).roughTravel
          roughFast := (s.ch c).roughFast.commandClose s.now (s.cfg.chambers.look c).roughTravel }) ∧
        (∀ sub : SubPhase, flag = false → (s.ch c).inPhase .roughPaused = true → e.paused = some sub →
          (t.ch c).state = .running ∧ (t.ch c).phase = sub.phase ∧
          ((s.ch c).gate.isClosed = true → (s.ch c).vent.isClosed = true →
            (t.ch c).roughSoft.cmd = true ∧ (sub = .fast → (t.ch c).roughFast.cmd = true)))) ∧
      (∀ l : Line, s.fla.holder = some (.line l) → flag ≠ s.fla.pause → t.csq = s.csq ∧
        (flag = true → t.fla.progress = none ∧ t.fla.pumps.look l = (s.fla.pumps.look l).commandClose s.now s.cfg.pumpTravel ∧
          t.fla.list = s.fla.list.map (fun q => if q.line = l then { q with acc := q.progress s } else q)) ∧
        (flag = false → t.fla.progress = some s.now ∧ t.fla.list = s.fla.list ∧
          t.fla.pumps.look l = (s.fla.pumps.look l).commandOpen s.now s.cfg.pumpTravel s.iiu.forcing)))

/-- RRES makes a suspended chamber request the foreline again when its pressure is above crossover: it waits, its rough timer
stopped, while the foreline is not idle or a grant block stands, a line that pumps out yielding; and is granted an idle,
unblocked foreline for which nobody waits. At crossover pressure it crosses over; outside ROUGH_SUSPENDED, or with no step, it
is refused with STATE. A gauge reading at crossover pressure does the same in WAIT_FORELINE and the roughing phases, one at or
below the soft rough level takes ROUGH_SOFT to ROUGH_FAST, and in ROUGH_SUSPENDED none moves the chamber (R18, R19, R42 to R46,
R50, R51, R60, R62, R67).
The model's choices in it: notes/assumptions/7.md, notes/assumptions/9.md, notes/assumptions/11.md, notes/assumptions/38.md,
notes/assumptions/39.md, notes/assumptions/50.md. -/
def Obligations.RoughingResumed : Prop :=
  (∀ (s : State) (f : Frame) (c : Chamber), Served s → Asks s .rres f → f.body = u8 (c.val + 1) →
    ((s.ch c).exec = none → Refuses .rres s f .state) ∧
    ∀ e, (s.ch c).exec = some e →
      ((s.ch c).state = .running → (s.ch c).phase = .roughSuspended → atCrossover s c = false →
        (s.fla.state ≠ .idle ∨ grantBlocked s = true → (∀ l : Line, s.fla.holder ≠ some (.line l)) →
          ∃ t, exec .rres s = .next t ∧ Answered s t f (.ack (u16 e.record.id)) ∧ FrameOf c s t ∧
            t.ch c = { s.ch c with
              phase := .waitForeline
              exec := some { e with excursion := none, roughHeld := e.roughElapsed s.now, roughSince := none } } ∧
            t.fla = { s.fla with waiting := s.fla.waiting.put c true }) ∧
        ∃ t, exec .rres s = .next t ∧ Answered s t f (.ack (u16 e.record.id)) ∧ FrameOf c s t ∧
          ForelineRequested s t c e.record) ∧
      ((s.ch c).state = .running → (s.ch c).phase = .roughSuspended → atCrossover s c = true → Out s c →
        ∃ t, exec .rres s = .next t ∧ Answered s t f (.ack (u16 e.record.id)) ∧ FrameOf c s t ∧
          CrossedOver s t c e.record) ∧
      ((s.ch c).state ≠ .running ∨ (s.ch c).phase ≠ .roughSuspended → Refuses .rres s f .state)) ∧
  (∀ (s : State) (bs : BusReply) (c : Chamber) (process wide p : Option Nat) (e : StepCtx), Served s →
    GaugeReading s bs c process wide p → (s.ch c).state = .running → (s.ch c).exec = some e → c ∉ s.gat.queue →
    ((s.ch c).phase = .waitForeline ∨ (s.ch c).phase = .roughSoft ∨ (s.ch c).phase = .roughFast ∨
        (s.ch c).phase = .roughPaused →
      (∀ v, p = some v → v ≤ (s.cfg.chambers.look c).crossover →
        ∃ t, exec (.instrumentReply bs) s = .next t ∧ ReadingFrame c s t ∧ CrossedOver s t c e.record ∧
          t.fla.waiting.look c = false ∧ t.fla.holder ≠ some (.chamber c)) ∧
      ((∀ v, p = some v → (s.cfg.chambers.look c).crossover < v ∧
          ((s.ch c).phase = .roughSoft → (s.cfg.chambers.look c).softRough < v)) →
        ∃ t, exec (.instrumentReply bs) s = .next t ∧ ReadingFrame c s t ∧ t.ch c = (s.ch c).withReadings process wide p ∧
          t.fla = s.fla)) ∧
    ((s.ch c).phase = .roughSuspended →
      ∃ t, exec (.instrumentReply bs) s = .next t ∧ ReadingFrame c s t ∧ t.ch c = (s.ch c).withReadings process wide p ∧
        t.fla = s.fla) ∧
    ((s.ch c).phase = .roughSoft → ∀ v, p = some v → (s.cfg.chambers.look c).crossover < v →
      v ≤ (s.cfg.chambers.look c).softRough →
      ∃ t, exec (.instrumentReply bs) s = .next t ∧ ReadingFrame c s t ∧ Executes t c e.record .roughFast ∧ t.fla = s.fla ∧
        ((s.ch c).gate.isClosed = true → (s.ch c).vent.isClosed = true → s.fla.holder = some (.chamber c) →
          (t.ch c).roughSoft.cmd = true ∧ (t.ch c).roughFast.cmd = true)))

/-- CLRF takes a FAULTED chamber to READY with no cause when every condition of R17 holds, and is refused with STATE otherwise;
nothing else of the chamber changes (R17).
The model's choices in it: notes/assumptions/17.md. -/
def Obligations.FaultCleared : Prop :=
  ∀ (s : State) (f : Frame) (c : Chamber), Served s → Asks s .clrf f → f.body = u8 (c.val + 1) →
    ((s.ch c).state ≠ .faulted → Refuses .clrf s f .state) ∧
    ((s.ch c).state = .faulted →
      (emoAsserted s = true ∨ foreOk s = false ∨ exhOk s = false ∨ allInstrumentsOk s c = false ∨
        lidClosed s c = false ∧ ((s.ch c).vac = .roughed ∨ (s.ch c).vac = .highvac)) → Refuses .clrf s f .state) ∧
    ((s.ch c).state = .faulted → emoAsserted s = false → foreOk s = true → exhOk s = true → allInstrumentsOk s c = true →
      (lidClosed s c = true ∨ (s.ch c).vac ≠ .roughed ∧ (s.ch c).vac ≠ .highvac) →
      ∃ t, exec .clrf s = .next t ∧ Answered s t f (.ack []) ∧ FrameOf c s t ∧
        t.ch c = { s.ch c with state := .ready, phase := .none, cause := none } ∧ (∀ k : Channel, t.chan c k = s.chan c k) ∧
        Posted s t (.chstate c .ready .none (s.ch c).vac) ∧ t.gat = s.gat ∧ t.fla = s.fla ∧ t.ilc = s.ilc)

/-! ## Line requests and the poll table's enable (chapters 5 and 9) -/

/-- LINE PUMPOUT makes a READY line with nothing allocated PUMPOUT_PENDING and lists it last; on an idle, unblocked foreline
that nobody waits for, with an empty list, it pumps out at once. An allocated line gives IN_USE; the other states give STATE
(R62, R65, R78, R81).
The model's choices in it: notes/assumptions/9.md, notes/assumptions/11.md, notes/assumptions/25.md, notes/assumptions/32.md. -/
def Obligations.LinePumpoutListsLine : Prop :=
  ∀ (s : State) (f : Frame) (l : Line), Served s → Asks s .line f → f.body = u8 (l.val + 1) ++ u8 0 →
    ((s.ln l).state = .unconfigured → Refuses .linePumpout s f .notConfigured) ∧
    ((s.ln l).state = .ready → allocated s l ≠ 0 → Refuses .linePumpout s f .inUse) ∧
    ((s.ln l).state = .pumpoutPending ∨ (s.ln l).state = .pumpingOut → Refuses .linePumpout s f .state) ∧
    ((s.ln l).state = .lockedOut → lineCabinetOk s l = false → Refuses .linePumpout s f .state) ∧
    (((s.ln l).state = .ready ∧ allocated s l = 0 ∨ (s.ln l).state = .lockedOut ∧ lineCabinetOk s l = true) →
      (∀ x ∈ s.gat.toFla, x.2 ≠ l) → (∀ p ∈ s.fla.list, p.line ≠ l) → (∀ x ∈ s.fla.toGat, x.2 ≠ l) →
      (s.fla.state ≠ .idle ∨ grantBlocked s = true →
        ∃ t, exec .linePumpout s = .next t ∧
          Answered s t f (.ack (u8 (l.val + 1) ++ u8 LineState.pumpoutPending.code)) ∧
          t.ln l = { s.ln l with state := .pumpoutPending } ∧ (∀ m : Line, m ≠ l → t.ln m = s.ln m) ∧
          t.fla = { s.fla with list := s.fla.list ++ [{ line := l, acc := 0 }] } ∧
          Posted s t (.linestate l .pumpoutPending (allocated s l) .pumpout) ∧
          t.csq = s.csq ∧ t.fcu = s.fcu ∧ t.cfg = s.cfg ∧ t.iiu = s.iiu ∧ t.ilc = s.ilc ∧ t.now = s.now) ∧
      (s.fla.state = .idle → grantBlocked s = false → (∀ d : Chamber, s.fla.waiting.look d = false) → s.fla.list = [] →
        s.fla.pause = false → 0 < pumpTimeMs s l →
        ∃ t, exec .linePumpout s = .next t ∧
          Answered s t f (.ack (u8 (l.val + 1) ++ u8 LineState.pumpingOut.code)) ∧
          t.ln l = { s.ln l with state := .pumpingOut } ∧ (∀ m : Line, m ≠ l → t.ln m = s.ln m) ∧
          t.fla.state = .heldPumpout ∧ t.fla.holder = some (.line l) ∧ t.fla.list = [{ line := l, acc := 0 }] ∧
          t.fla.progress = some s.now ∧ t.fla.pumpMs = pumpTimeMs s l ∧ (t.fla.pumps.look l).cmd = true ∧
          t.fla.toGat = s.fla.toGat ∧
          t.csq = s.csq ∧ t.fcu = s.fcu ∧ t.cfg = s.cfg ∧ t.iiu = s.iiu ∧ t.ilc = s.ilc ∧ t.now = s.now))

/-- LINE LOCKOUT locks out a line of any configured state but LOCKED_OUT, with a removal sent when it was listed, and faults with
LINE_LOST each RUNNING or HELD chamber that holds it, and each that waits in the admission queue with a request that names it; a
chamber that neither holds it nor waits is as it was (R79, R83).
The model's choices in it: notes/assumptions/9.md, notes/assumptions/32.md. -/
def Obligations.LineLockoutFaultsHolders : Prop :=
  ∀ (s : State) (f : Frame) (l : Line), Served s → Asks s .line f → f.body = u8 (l.val + 1) ++ u8 1 →
    ((s.ln l).state = .unconfigured → Refuses .lineLockout s f .notConfigured) ∧
    ((s.ln l).state = .lockedOut → Refuses .lineLockout s f .state) ∧
    ((s.ln l).state ≠ .unconfigured → (s.ln l).state ≠ .lockedOut →
      ∃ t, exec .lineLockout s = .next t ∧
        Answered s t f (.ack (u8 (l.val + 1) ++ u8 LineState.lockedOut.code)) ∧
        t.ln l = { s.ln l with state := .lockedOut } ∧ (∀ m : Line, m ≠ l → t.ln m = s.ln m) ∧
        t.gat.toFla = s.gat.toFla ++ (if (s.ln l).state = .pumpoutPending ∨ (s.ln l).state = .pumpingOut
          then [(.removal, l)] else []) ∧
        t.cfg = s.cfg ∧ t.iiu = s.iiu ∧ t.now = s.now ∧ t.ilc.poll = s.ilc.poll ∧
        (∀ c : Chamber, flowOn (s.ch c).holdings l ≠ none → ((s.ch c).state = .running ∨ (s.ch c).state = .held) →
          FaultedWith t c .lineLost ∧ SensedAs s t c ∧
            ∀ e, (s.ch c).state = .running → (s.ch c).exec = some e → ReportedAs t c e.record.id .lineLost) ∧
        (∀ (c : Chamber) (rq : Request), c ∈ s.gat.queue → (s.ch c).request = some rq → flowOn rq.wants l ≠ none →
          ((s.ch c).state = .running ∨ (s.ch c).state = .held) →
          FaultedWith t c .lineLost ∧ SensedAs s t c ∧
            ∀ e, (s.ch c).state = .running → (s.ch c).exec = some e → ReportedAs t c e.record.id .lineLost) ∧
        (∀ c : Chamber, flowOn (s.ch c).holdings l = none → Out s c →
          t.ch c = s.ch c ∧ ∀ k : Channel, t.chan c k = s.chan c k))

/-- LINE UNLOCK makes a LOCKED_OUT line whose cabinet is ready READY, with a LINESTATE; elsewhere it is refused (R80).
The model's choices in it: notes/assumptions/32.md. -/
def Obligations.LineUnlockReturnsLine : Prop :=
  ∀ (s : State) (f : Frame) (l : Line), Served s → Asks s .line f → f.body = u8 (l.val + 1) ++ u8 2 →
    ((s.ln l).state = .unconfigured → Refuses .lineUnlock s f .notConfigured) ∧
    ((s.ln l).state ≠ .unconfigured → ((s.ln l).state ≠ .lockedOut ∨ lineCabinetOk s l = false) →
      Refuses .lineUnlock s f .state) ∧
    ((s.ln l).state = .lockedOut → lineCabinetOk s l = true →
      ∃ t, exec .lineUnlock s = .next t ∧ Answered s t f (.ack (u8 (l.val + 1) ++ u8 LineState.ready.code)) ∧
        t.ln l = { s.ln l with state := .ready } ∧ (∀ m : Line, m ≠ l → t.ln m = s.ln m) ∧
        t.cfg = s.cfg ∧ t.iiu = s.iiu ∧ t.now = s.now ∧ t.ilc.poll = s.ilc.poll ∧
        (∀ c : Chamber, Out s c → t.ch c = s.ch c ∧ ∀ k : Channel, t.chan c k = s.chan c k) ∧
        (s.gat.queue = [] → Posted s t (.linestate l .ready (allocated s l) .unlock) ∧ t.fla = s.fla))

/-- PTEN ENABLE sets the flag, budget and window, empties the urgent queue, makes every used entry UNKNOWN with no miss, loads its
countdown with 1 + (entry number mod period), its due flag clear and its late-frame count 0, and begins the first frame, which lowers
the countdowns: the entries that this makes due are served in ascending number, the first at once, and those beyond the budget count
one late frame; PTEN DISABLE clears the flag and every used entry's state, and ends the frame in progress. Each
refuses with STATE when the table is already so (R143, R146, R147, R148).
The model's choices in it: notes/assumptions/17.md, notes/assumptions/29.md, notes/assumptions/32.md, notes/assumptions/41.md. -/
def Obligations.PollTableEnabledAndDisabled : Prop :=
  (∀ (s : State) (f : Frame) (budget window : Nat), Served s → Asks s .pten f →
    8 ≤ budget → budget ≤ 64 → 100 ≤ window → window ≤ 2000 → f.body = u8 0 ++ u8 budget ++ u16 window → gateOpen s = true →
    (s.cfg.enabled = true → Refuses .ptenEnable s f .state) ∧
    (s.cfg.enabled = false →
      ∃ t, exec .ptenEnable s = .next t ∧ Answered s t f (.ack []) ∧
        t.cfg = { s.cfg with enabled := true, budget := budget, window := window } ∧
        t.ilc.frameAt = s.now ∧ t.ilc.urgent = [] ∧
        (∀ e : EntryIx, (s.cfg.poll.look e).used = true → (t.pollDyn e).state = .unknown ∧ (t.pollDyn e).misses = 0) ∧
        (∀ e : EntryIx, (s.cfg.poll.look e).used = false → t.pollDyn e = s.pollDyn e) ∧
        (∀ due, due = (allIx 96).filter (fun e : EntryIx =>
            (s.cfg.poll.look e).used && decide (e.val % (s.cfg.poll.look e).period = 0)) →
          ∀ e : EntryIx, (s.cfg.poll.look e).used = true →
            (due.head? = some e → (t.pollDyn e).countdown = (s.cfg.poll.look e).period ∧ (t.pollDyn e).due = false ∧
              (t.pollDyn e).late = 0) ∧
            (due.head? ≠ some e → (t.pollDyn e).countdown = e.val % (s.cfg.poll.look e).period ∧
              (t.pollDyn e).due = decide (e.val % (s.cfg.poll.look e).period = 0) ∧
              (t.pollDyn e).late = if e ∈ due.drop budget then 1 else 0)) ∧
        t.iiu = s.iiu ∧ t.now = s.now ∧ t.gat.lines = s.gat.lines)) ∧
  (∀ (s : State) (f : Frame) (x y z : Byte), Served s → Asks s .pten f → f.body = u8 1 ++ [x, y, z] → gateOpen s = true →
    ((s.cfg.enabled = false ∨ allOffline s = false) → Refuses .ptenDisable s f .state) ∧
    (s.cfg.enabled = true → allOffline s = true →
      ∃ t, exec .ptenDisable s = .next t ∧ Answered s t f (.ack []) ∧
        t.cfg = { s.cfg with enabled := false } ∧ t.ilc.inFlight = none ∧ t.ilc.frameRest = [] ∧ t.ilc.urgent = [] ∧
        (∀ e : EntryIx, (s.cfg.poll.look e).used = true →
          (t.pollDyn e).state = .unknown ∧ (t.pollDyn e).misses = 0 ∧ (t.pollDyn e).due = false) ∧
        t.iiu = s.iiu ∧ t.now = s.now ∧ t.gat.lines = s.gat.lines))

/-! ## Resets (R23, R24, R73, R74, R96, R97, R110, R111, R153, R154, R181, R182) -/

/-- RSET leaves every chamber OFFLINE with no step, no report and no event of its own, its valves commanded closed from where
they stand, and every channel at 0 with no reading; the configuration, the inputs, the totals and the time tag are kept
(R24, R97, R111).
The model's choices in it: notes/assumptions/7.md, notes/assumptions/12.md, notes/assumptions/24.md. -/
def Obligations.SoftResetOfChambersAndFlows : Prop :=
  ∀ (s : State) (f : Frame), Asks s .rset f →
    ∃ t, exec .rset s = .next t ∧
      (∀ c : Chamber, t.ch c =
        { state := .offline, phase := .none, vac := .unknown, cause := none, slotA := none, slotB := none, loadPtr := .a,
          runPtr := .a, exec := none, holdings := [],
          residue := Table.put (Vector.replicate 8 true) 0 false,
          processReading := none, wideReading := none, pressure := none, throttlePos := none, genReading := none,
          biasReading := none, hold := none, request := none, admitTimer := none, reports := [],
          gate := (s.ch c).gate.commandClose s.now (s.cfg.chambers.look c).gateTravel,
          roughSoft := (s.ch c).roughSoft.commandClose s.now (s.cfg.chambers.look c).roughTravel,
          roughFast := (s.ch c).roughFast.commandClose s.now (s.cfg.chambers.look c).roughTravel,
          vent := (s.ch c).vent.commandClose s.now (s.cfg.chambers.look c).ventTravel,
          rfEn := false, throttle := .open, source := 0, bias := 0 }) ∧
      (∀ (c : Chamber) (k : Channel), (t.chan c k).target = 0 ∧ (t.chan c k).current = 0 ∧ (t.chan c k).lastSent = 0 ∧
        (t.chan c k).reading = none ∧ (t.chan c k).lastTime = none ∧ (t.chan c k).deviation = none ∧
        stickOpen t c k = false) ∧
      (∀ l : Line, allocated t l = 0 ∧ (t.ln l).total = (s.ln l).total ∧ (t.ln l).rem = (s.ln l).rem) ∧
      t.cfg = s.cfg ∧ t.iiu = s.iiu ∧ t.now = s.now ∧
      (∀ r ∈ t.svl.events, ∃ st h p n, r.event = .foreline st h p n)

/-- What RSET leaves of the other blocks: the request buffer, the admission queue and the waiting set are empty, link-fault and
events-lost are clear, no line pumps out, every used poll entry is UNKNOWN; the mask and the reply to come are kept. The pump-out
list keeps its lines in order with progress 0, and the event queue holds at most the one FORELINE event of the foreline's own
reset, where each listed line has a pump-out time (R74, R97, R154, R181).
The model's choices in it: notes/assumptions/12.md, notes/assumptions/17.md, notes/assumptions/23.md. -/
def Obligations.SoftResetOfOtherBlocks : Prop :=
  ∀ (s : State) (f : Frame), Asks s .rset f →
    ∃ t, exec .rset s = .next t ∧ t.svl.buffer = [] ∧ t.svl.linkFault = false ∧
      ((∀ p ∈ s.fla.list, 0 < pumpTimeMs s p.line) →
        t.svl.events.length ≤ 1 ∧ (∀ r ∈ t.svl.events, ∃ st h p n, r.event = .foreline st h p n) ∧ t.svl.eventsLost = false ∧
        t.fla.list = s.fla.list.map (fun p => { p with acc := 0 })) ∧
      t.svl.mask = s.svl.mask ∧
      (s.svl.tx = none → t.svl.tx = some (replyFrame { tag := f.tag, body := .ack [] }) ∧ t.svl.reply = none) ∧
      t.gat.queue = [] ∧ (∀ l : Line, (t.ln l).state ≠ .pumpingOut) ∧
      (∀ l : Line, s.fla.toGat = [] → (s.ln l).state ≠ .pumpingOut → t.ln l = s.ln l) ∧
      (∀ c : Chamber, t.fla.waiting.look c = false) ∧ (∀ c : Chamber, t.fla.holder ≠ some (.chamber c)) ∧
      t.fla.pause = false ∧ t.fla.pressure = none ∧
      (∀ e : EntryIx, (s.cfg.poll.look e).used = true → (t.pollDyn e).state = .unknown ∧ (t.pollDyn e).misses = 0) ∧
      t.ilc.urgent = []

/-- A full reset leaves every chamber, line, channel and the Supervisory Link at the values R23, R96, R110 and R182 list, and
the foreline, its settings and the poll table at the values R73 and R153 list, whatever the state before. In the Interlock Input Unit every
qualified level is unqualified, every qualification timer is started with 2 ms, every qualification time is 2 ms, output forcing is in
force and the merge timers are stopped; an EMO level that stands asserted qualifies as asserted at once (R163). Nothing is said of the
generator setpoints, whose reset value is deduced: notes/assumptions/24.md.
The model's choices in it: notes/assumptions/34.md. -/
def Obligations.FullResetValues : Prop :=
  ∀ s : State, ∃ t, exec .fullReset s = .next t ∧
    (∀ c : Chamber, t.ch c =
      { state := .offline, phase := .none, vac := .unknown, cause := none, slotA := none, slotB := none, loadPtr := .a,
        runPtr := .a, exec := none, holdings := [],
        residue := Table.put (Vector.replicate 8 true) 0 false,
        processReading := none, wideReading := none, pressure := none, throttlePos := none, genReading := none,
        biasReading := none, hold := none, request := none, admitTimer := none, reports := [],
        gate := { cmd := false, pos := .closed }, roughSoft := { cmd := false, pos := .closed },
        roughFast := { cmd := false, pos := .closed }, vent := { cmd := false, pos := .closed },
        rfEn := false, throttle := .open, source := (t.ch c).source, bias := (t.ch c).bias } ∧
      t.cfg.chambers.look c = ChamberParams.default) ∧
    (∀ (c : Chamber) (k : Channel),
      t.chan c k = { target := 0, current := 0, lastSent := 0, reading := none, lastTime := none, deviation := none } ∧
      stickOpen t c k = false ∧
      (t.cfg.maps.look c).look k = { line := none, fs := 100, floor := 100, ramp := 10000 }) ∧
    (∀ l : Line, t.ln l = { state := .unconfigured, total := 0, rem := 0 } ∧ t.cfg.lines.look l = none ∧ allocated t l = 0) ∧
    t.gat.queue = [] ∧
    (∀ i j : GasClass, compatible t i j = decide (i = j ∨ i = 0 ∨ j = 0)) ∧
    t.fla.state = .idle ∧ t.fla.holder = none ∧ (∀ c : Chamber, t.fla.waiting.look c = false) ∧ t.fla.list = [] ∧
    t.fla.pause = false ∧ t.fla.pressure = none ∧
    (∀ l : Line, t.fla.pumps.look l = { cmd := false, pos := .closed }) ∧ foreOk t = false ∧
    t.cfg.chain = [0, 1, 2, 3, 4, 5] ∧ t.cfg.backingLimit = 500000 ∧ t.cfg.resumeLevel = 300000 ∧ t.cfg.pumpTravel = 200 ∧
    t.cfg.enabled = false ∧ t.cfg.budget = 40 ∧ t.cfg.window = 500 ∧ t.ilc.urgent = [] ∧ t.ilc.frameRest = [] ∧
    t.ilc.inFlight = none ∧
    (∀ e : EntryIx, (t.cfg.poll.look e).used = false ∧
      t.pollDyn e = { countdown := 0, due := false, late := 0, state := .unknown, misses := 0 }) ∧
    t.svl.assembler = none ∧ t.svl.buffer = [] ∧ t.svl.reply = none ∧ t.svl.events = [] ∧
    t.svl.linkFault = false ∧ t.svl.eventsLost = false ∧ (∀ i : Fin 7, t.svl.mask.look i = true) ∧
    t.cfg.lock = .open ∧ timeTag t = 0 ∧
    (∀ i : Input, i ≠ .emo ∨ (t.inp .emo).raw = false → (t.inp i).qual = none ∧ (t.inp i).timer = some (t.now + 2)) ∧
    ((t.inp .emo).raw = true → (t.inp .emo).qual = some true ∧ (t.inp .emo).timer = none) ∧
    (∀ i : Input, t.cfg.qualMs.look (inputIx i) = 2) ∧ t.iiu.forcing = true ∧ (∀ c : Chamber, t.iiu.merge.look c = none)

/-! ## The Supervisory Link (R173 to R176) -/

/-- A frame as R173 lays it out, sent byte by byte to a hunting assembler, stands whole at the end of the request buffer, for
every kind, every tag and every body of at most 240 bytes; nothing else of the link changes. -/
def Obligations.FrameRoundTrip : Prop :=
  ∀ (v : Svl) (now : Nat) (kind tag : Byte) (body : List Byte), v.assembler = none → v.gap = none →
    v.buffer.length < Config.requestBufferSize → body.length ≤ Config.maxLen →
    (frameBytes kind tag body).foldl (fun v b => Svl.takeByte now b v) v
      = { v with buffer := v.buffer ++ [{ kind := kind, tag := tag, body := body }] }

/-- The assembler takes a byte: while hunting only the start byte begins a frame; a length above 240 discards it with link-fault
set; a byte that completes none is kept and restarts the gap timer; the byte that completes a frame appends it when its CRC matches
and the buffer has room, and sets link-fault otherwise; an inter-byte gap discards the frame with link-fault set (R173). At the end
of a frame the transmitter sends the reply, else the oldest event, else goes idle (R176).
The model's choices in it: notes/assumptions/2.md, notes/assumptions/4.md, notes/assumptions/23.md. -/
def Obligations.LinkReceivesAndTransmits : Prop :=
  (∀ (s : State) (b : Byte), Served s → s.svl.assembler = none →
    (b = 0xA5#8 → exec (.linkByteReceived b) s = .next (s.modSvl (fun v => Svl.transmit
      { v with assembler := some [], gap := some (s.now + Config.interByteGapMs) }))) ∧
    (b ≠ 0xA5#8 → Idles (.linkByteReceived b) s) ∧ Idles (.frameReceived b) s) ∧
  (∀ (s : State) (b : Byte) (bs : List Byte), Served s → s.svl.assembler = some bs →
    (bs = [] → 240 < b.toNat → exec (.linkByteReceived b) s = .next (s.modSvl (fun v => Svl.transmit
      { v with assembler := none, gap := none, linkFault := true }))) ∧
    (bs = [] ∧ b.toNat ≤ 240 ∨ bs ≠ [] ∧ asmComplete (bs ++ [b]) = false →
      exec (.linkByteReceived b) s = .next (s.modSvl (fun v => Svl.transmit
        { v with assembler := some (bs ++ [b]), gap := some (s.now + Config.interByteGapMs) }))) ∧
    (bs = [] ∨ asmComplete (bs ++ [b]) = false → Idles (.frameReceived b) s)) ∧
  (∀ (s : State) (b : Byte) (bs : List Byte), Served s → s.svl.assembler = some bs → bs ≠ [] →
    asmComplete (bs ++ [b]) = true → ∀ i ∈ [Instr.frameReceived b, .linkByteReceived b],
    (crcMatches (bs ++ [b]) = true → s.svl.buffer.length < Config.requestBufferSize →
      exec i s = .next (s.modSvl (fun v => Svl.transmit
        { v with assembler := none, gap := none, buffer := v.buffer ++ [asmFrame (bs ++ [b])] }))) ∧
    (crcMatches (bs ++ [b]) = false ∨ Config.requestBufferSize ≤ s.svl.buffer.length →
      exec i s = .next (s.modSvl (fun v => Svl.transmit
        { v with assembler := none, gap := none, linkFault := true })))) ∧
  (∀ (s : State) (bs : List Byte), Served s → s.svl.assembler = some bs →
    (timerDue s s.svl.gap = true → exec .interbyteGapExpiry s = .next (s.modSvl (fun v => Svl.transmit
      { v with assembler := none, gap := none, linkFault := true }))) ∧
    (timerDue s s.svl.gap = false → Idles .interbyteGapExpiry s)) ∧
  (∀ s : State, Served s →
    (∀ r, s.svl.reply = some r → exec .transmitFrameEnd s =
      .next (s.modSvl (fun v => { v with reply := none, tx := some (replyFrame r) }))) ∧
    (∀ e rest, s.svl.reply = none → s.svl.events = e :: rest → exec .transmitFrameEnd s =
      .next (s.modSvl (fun v => { v with events := rest, tx := some (frameBytes 0x82#8 0#8 (eventBody e)) }))) ∧
    (s.svl.reply = none → s.svl.events = [] → exec .transmitFrameEnd s = .next (s.modSvl (fun v => { v with tx := none }))))

/-- Requests that cannot be handled are refused and change nothing else: of no kind UNKNOWN_KIND, of a length the kind does not
have BAD_LENGTH, of a target outside the kind's numbering BAD_TARGET, of an operation or a field outside its range BAD_VALUE
(R142, R143, R162, R166, R168, R169, R171, R174, R175).
The model's choices in it: notes/assumptions/2.md, notes/assumptions/3.md, notes/assumptions/17.md, notes/assumptions/18.md,
notes/assumptions/32.md. -/
def Obligations.MalformedRequestsRefused : Prop :=
  ∀ (s : State) (f : Frame), Served s → nextRequest s = some f →
    (reqKindOf f.kind = none → Refuses .unknownKindFrame s f .unknownKind) ∧
    (reqKindOf f.kind ≠ none → Idles .unknownKindFrame s) ∧
    (∀ x ∈ [(Instr.ident, ReqKind.ident), (.stat, .stat), (.cfgln, .cfgln), (.cfgcx, .cfgcx), (.cfgch, .cfgch),
        (.cfgmap, .cfgmap), (.cfgpt, .cfgpt), (.cfgfl, .cfgfl), (.cfgiq, .cfgiq), (.cfglk, .cfglk), (.rdcfg, .rdcfg),
        (.ptenEnable, .pten), (.ptenDisable, .pten), (.onln, .onln), (.offln, .offln), (.abrt, .abrt), (.rsus, .rsus),
        (.rres, .rres), (.clrf, .clrf), (.linePumpout, .line), (.lineLockout, .line), (.lineUnlock, .line), (.rpt, .rpt),
        (.totl, .totl), (.evmsk, .evmsk), (.mark, .mark), (.rset, .rset)],
      reqKindOf f.kind = some x.2 → lengthFits x.2 f.body = false → Refuses x.1 s f .badLength) ∧
    (∀ x ∈ [(Instr.onln, ReqKind.onln), (.offln, .offln), (.abrt, .abrt), (.rsus, .rsus), (.rres, .rres), (.clrf, .clrf),
        (.rpt, .rpt), (.cfgch, .cfgch), (.cfgmap, .cfgmap)],
      Asks s x.2 f → (field f.body 0 1 = 0 ∨ 6 < field f.body 0 1) → Refuses x.1 s f .badTarget) ∧
    (∀ x ∈ [(Instr.linePumpout, 0), (.lineLockout, 1), (.lineUnlock, 2)], Asks s .line f →
      ((field f.body 0 1 = 0 ∨ 12 < field f.body 0 1) → (field f.body 1 1 = x.2 ∨ 2 < field f.body 1 1) →
        Refuses x.1 s f .badTarget) ∧
      (1 ≤ field f.body 0 1 → field f.body 0 1 ≤ 12 → 2 < field f.body 1 1 → Refuses x.1 s f .badValue)) ∧
    (Asks s .cfgln f →
      ((field f.body 0 1 = 0 ∨ 12 < field f.body 0 1) → Refuses .cfgln s f .badTarget) ∧
      (1 ≤ field f.body 0 1 → field f.body 0 1 ≤ 12 →
        (7 < field f.body 3 1 ∨ field f.body 4 2 < 100 ∨ 2000 < field f.body 4 2 ∨ 50000 < field f.body 6 2 ∨
          field f.body 8 1 = 0 ∨ 4 < field f.body 8 1 ∨ field f.body 9 2 < 10 ∨ 600 < field f.body 9 2) →
        Refuses .cfgln s f .badValue)) ∧
    (Asks s .cfgcx f → (7 < field f.body 0 1 ∨ 7 < field f.body 1 1) → Refuses .cfgcx s f .badTarget) ∧
    (Asks s .cfgmap f →
      ((field f.body 1 1 = 0 ∨ 8 < field f.body 1 1 ∨ 12 < field f.body 2 1) → Refuses .cfgmap s f .badTarget) ∧
      (1 ≤ field f.body 0 1 → field f.body 0 1 ≤ 6 → 1 ≤ field f.body 1 1 → field f.body 1 1 ≤ 8 → field f.body 2 1 ≤ 12 →
        (field f.body 3 2 < 10 ∨ 20000 < field f.body 3 2 ∨ 500 < field f.body 5 2 ∨ field f.body 7 2 = 0 ∨
          10000 < field f.body 7 2) → Refuses .cfgmap s f .badValue)) ∧
    (Asks s .cfgpt f →
      (95 < field f.body 0 1 → Refuses .cfgpt s f .badTarget) ∧
      (field f.body 0 1 ≤ 95 → pollInRange (pollOf f.body) = false → Refuses .cfgpt s f .badValue)) ∧
    (Asks s .cfgiq f →
      (10 < field f.body 0 1 ∨ 8 ≤ field f.body 0 1 ∧ 6 < field f.body 1 1) → Refuses .cfgiq s f .badTarget) ∧
    (Asks s .pten f →
      (1 < field f.body 0 1 → Refuses .ptenEnable s f .badValue ∧ Refuses .ptenDisable s f .badValue) ∧
      (field f.body 0 1 = 0 →
        (field f.body 1 1 < 8 ∨ 64 < field f.body 1 1 ∨ field f.body 2 2 < 100 ∨ 2000 < field f.body 2 2) →
        Refuses .ptenEnable s f .badValue))

/-! ## Inputs, EMO and notices (chapter 10) -/

/-- A raw level change starts, stops or restarts the input's qualification timer and changes nothing else; a level the pin
already has changes nothing; a raw EMO assertion is EMO_ASSERTION and a rising ARC level ARC_EDGE (R156, R157, R160).
The model's choices in it: notes/assumptions/2.md, notes/assumptions/26.md. -/
def Obligations.RawChangeRunsQualificationTimer : Prop :=
  ∀ s : State, Served s →
    (∀ (i : Input) (l : Bool), (s.inp i).raw = l → Idles (.rawInputChange (.qualified i) l) s) ∧
    (∀ (i : Input) (l : Bool), (s.inp i).raw ≠ l → ¬(i = .emo ∧ l = true) →
      exec (.rawInputChange (.qualified i) l) s = .next ((s.modInp i (fun x =>
        { x with raw := l,
                 timer := if x.qual = some l then none else some (s.now + s.cfg.qualMs.look (inputIx i)) })).modSvl
        Svl.transmit)) ∧
    (exec (.rawInputChange (.qualified .emo) true) s = exec .emoAssertion s) ∧
    (∀ c : Chamber, exec (.rawInputChange (.arc c) false) s =
      .next ((s.modIiu (fun u => { u with arcRaw := u.arcRaw.put c false })).modSvl Svl.transmit)) ∧
    (∀ c : Chamber, s.iiu.arcRaw.look c = true → Idles (.rawInputChange (.arc c) true) s) ∧
    (∀ c : Chamber, s.iiu.arcRaw.look c = false → exec (.rawInputChange (.arc c) true) s = exec (.arcEdge c) s)

/-- A raw EMO assertion qualifies at once. From released it forces every valve output off and tells the chambers, the FLA and
the GAT; from asserted it only stops the release; from unqualified it qualifies, with forcing already in force; a raw level
already asserted changes nothing (R155, R157, R158, R159).
The model's choices in it: notes/assumptions/2.md, notes/assumptions/7.md, notes/assumptions/10.md, notes/assumptions/24.md. -/
def Obligations.EmoAssertionActsAtOnce : Prop :=
  ∀ s : State, Served s →
    ((s.inp .emo).raw = true → Idles .emoAssertion s) ∧
    ((s.inp .emo).raw = false → (s.inp .emo).qual = some true →
      exec .emoAssertion s = .next ((s.modInp .emo (fun x => { x with raw := true, timer := none })).modSvl Svl.transmit)) ∧
    ((s.inp .emo).raw = false → (s.inp .emo).qual = none →
      exec .emoAssertion s = .next ((post (.ilock .emo true true)
        (s.modInp .emo (fun x => { x with raw := true, qual := some true, timer := none }))).modSvl Svl.transmit)) ∧
    ((s.inp .emo).raw = false → (s.inp .emo).qual = some false →
      ∃ t, exec .emoAssertion s = .next t ∧ t.iiu.forcing = true ∧
        t.inp .emo = { raw := true, qual := some true, timer := none } ∧
        (∀ i : Input, i ≠ .emo → t.inp i = s.inp i) ∧
        t.iiu.notices = s.iiu.notices ++ ((allIx 6).map (fun c => Notice.mk (.csq c) .emo true)
          ++ [Notice.mk .fla .emo true, Notice.mk .gat .emo true]) ∧
        (∀ (c : Chamber) (v : ChamberValve), ((t.ch c).valve v) = ((s.ch c).valve v).force s.now (travelOf s c v)) ∧
        (∀ c : Chamber, t.ch c = { s.ch c with
          gate := (t.ch c).gate, roughSoft := (t.ch c).roughSoft, roughFast := (t.ch c).roughFast, vent := (t.ch c).vent }) ∧
        (∀ l : Line, t.fla.pumps.look l = (s.fla.pumps.look l).force s.now s.cfg.pumpTravel) ∧
        t.fla = { s.fla with pumps := t.fla.pumps } ∧ t.fcu = s.fcu ∧ t.gat = s.gat ∧ t.ilc = s.ilc ∧ t.cfg = s.cfg ∧
        t.now = s.now ∧ ∀ (c : Chamber) (k : Channel), stickOpen t c k = false ∧ rfOn t c = false)

/-- At a qualification timer's expiry the qualified level becomes the raw level, ILOCK is posted, and the owners are told if
the level they read has changed; a release of EMO ends output forcing, every valve following its command again. A timer that
has not run out, or does not run, changes nothing (R155, R156, R158, R159).
The model's choices in it: notes/assumptions/2.md, notes/assumptions/7.md, notes/assumptions/8.md, notes/assumptions/10.md. -/
def Obligations.QualificationExpiryQualifies : Prop :=
  ∀ (s : State) (i : Input), Served s →
    (timerDue s (s.inp i).timer = false → Idles (.qualificationExpiry i) s) ∧
    (timerDue s (s.inp i).timer = true → i ≠ .emo ∨ (s.inp i).raw = false →
      ∃ t, exec (.qualificationExpiry i) s = .next t ∧
        t.inp i = { raw := (s.inp i).raw, qual := some (s.inp i).raw, timer := none } ∧
        (∀ j : Input, j ≠ i → t.inp j = s.inp j) ∧
        t.iiu.notices = s.iiu.notices ++ (if levelRead s i = (s.inp i).raw then []
          else (noticeOwners i).map (fun o => Notice.mk o i (s.inp i).raw)) ∧
        t.iiu.forcing = (if i = .emo then false else s.iiu.forcing) ∧
        (i ≠ .emo → t.csq = s.csq ∧ t.fla = s.fla) ∧
        (i = .emo → (∀ (c : Chamber) (v : ChamberValve),
            ((t.ch c).valve v) = ((s.ch c).valve v).unforce s.now (travelOf s c v)) ∧
          (∀ l : Line, t.fla.pumps.look l = (s.fla.pumps.look l).unforce s.now s.cfg.pumpTravel)) ∧
        (s.svl.tx ≠ none → Posted s t (.ilock i (s.inp i).raw (decide ((s.inp i).qual = none)))) ∧
        t.fcu = s.fcu ∧ t.gat = s.gat ∧ t.ilc = s.ilc ∧ t.cfg = s.cfg ∧ t.now = s.now ∧ t.pending = s.pending)

/-- A chamber that takes the notice of a loss it is open to is faulted with that loss's cause: EMO in every state, FORE_OK with the
gate open or the foreline held, EXH_OK with gas or RF on, LID in RUNNING, HELD or under vacuum, TURBO with the gate open. An
OFFLINE or FAULTED chamber, and the SVL, only take the notice; a notice that does not wait changes nothing. A cabinet's loss
locks its lines out; the FLA's loss of EMO or FORE_OK stops the line that pumps out, which leaves for HANDOVER, or for the
grant decision where no valve into the foreline is open; the FLA's notice of EMO released or FORE_OK true makes the decision
where the foreline is IDLE and no block is left. An ENDPOINT watched in ETCH is reached, and the step ends OK at once where the
overetch is 0 (R14, R58, R62, R69, R70, R71, R82, R125, R127, R159).
The model's choices in it: notes/assumptions/2.md, notes/assumptions/7.md, notes/assumptions/8.md, notes/assumptions/9.md,
notes/assumptions/10.md, notes/assumptions/11.md, notes/assumptions/25.md, notes/assumptions/30.md. -/
def Obligations.NoticesOfLossFaultChambers : Prop :=
  ∀ (s : State) (o : NoticeOwner) (i : Input), Served s →
    (waitingNotice o i s = none → Idles (.qualifiedChangeNotice o i) s) ∧
    (∀ n, waitingNotice o i s = some n →
      let u := s.modIiu (fun x => { x with notices := x.notices.erase n })
      (o = .svl → exec (.qualifiedChangeNotice o i) s = .next (u.modSvl Svl.transmit)) ∧
      (∀ c : Chamber, o = .csq c → (s.ch c).state = .offline ∨ (s.ch c).state = .faulted → (s.ch c).exec = none →
        exec (.qualifiedChangeNotice o i) s = .next (u.modSvl Svl.transmit)) ∧
      (∀ (c : Chamber) (cause : Result), o = .csq c → (s.ch c).state ≠ .offline → (s.ch c).state ≠ .faulted →
        (i, n.level, cause) ∈ [(Input.emo, true, Result.emo), (.foreOk, false, .forelineLost), (.exhOk, false, .exhaust),
          (.lidClosed c, false, .lid), (.turboOk c, false, .turbo)] →
        (i = .foreOk → (s.ch c).gate.countsOpen = true ∨ holdsForeline s c = true) →
        (i = .exhOk → ((s.ch c).state = .running ∨ (s.ch c).state = .held) ∧
          (anyStickOpen s c = true ∨ rfOn s c = true)) →
        (i = .lidClosed c → (s.ch c).state = .running ∨ (s.ch c).state = .held ∨ (s.ch c).vac = .roughed ∨
          (s.ch c).vac = .highvac) →
        (i = .turboOk c → (s.ch c).gate.countsOpen = true) →
        ∃ t, exec (.qualifiedChangeNotice o i) s = .next t ∧ FaultedNow u t c cause) ∧
      (∀ c : Chamber, o = .csq c → (i, n.level) ∈ [(Input.emo, false), (.foreOk, true), (.exhOk, true),
          (.lidClosed c, true), (.turboOk c, true), (.endpoint c, false)] →
        exec (.qualifiedChangeNotice o i) s = .next (u.modSvl Svl.transmit)) ∧
      (∀ (c : Chamber) (e : StepCtx), o = .csq c → i = .endpoint c → n.level = true → (s.ch c).exec = some e →
        ((s.ch c).inPhase .etch = false ∨ e.record.endMode = .time ∨ e.maskDone = false →
          exec (.qualifiedChangeNotice o i) s = .next (u.modSvl Svl.transmit)) ∧
        (∀ t0, (s.ch c).inPhase .etch = true → e.record.endMode = .endpoint → e.maskDone = true → e.endpointMs = none →
          e.etchAt = some t0 → 0 < (s.now - t0) * e.record.overetchPct →
          ∃ t, exec (.qualifiedChangeNotice o i) s = .next t ∧ FrameOf c u t ∧
            t.ch c = { s.ch c with
              phase := .overetch
              exec := some { e with
                endpointMs := some (s.now - t0), duration := none, excursion := none,
                overetchTimer := some (s.now + min (((s.now - t0) * e.record.overetchPct + 99) / 100) 3600000),
                overetchAt := some s.now } }) ∧
        (∀ t0, (s.ch c).inPhase .etch = true → e.record.endMode = .endpoint → e.maskDone = true → e.endpointMs = none →
          e.etchAt = some t0 → (s.now - t0) * e.record.overetchPct = 0 → LastStep s c e →
          ∃ t, exec (.qualifiedChangeNotice o i) s = .next t ∧ EndedOk u t c e)) ∧
      (o = .fla → (i = .emo ∧ n.level = true ∨ i = .foreOk ∧ n.level = false) →
        ((∀ l : Line, s.fla.holder ≠ some (.line l)) →
          exec (.qualifiedChangeNotice o i) s = .next (u.modSvl Svl.transmit)) ∧
        (∀ l : Line, s.fla.holder = some (.line l) →
          let left := { s.fla with
            holder := none, progress := none
            list := s.fla.list.map (fun q => if q.line = l then { q with acc := q.progress s } else q)
            pumps := s.fla.pumps.put l ((s.fla.pumps.look l).commandClose s.now s.cfg.pumpTravel)
            toGat := s.fla.toGat ++ [(PumpMsg.stopped, l)] }
          (forelineValveOpen s = true →
            ∃ t, exec (.qualifiedChangeNotice o i) s = .next t ∧ t.fla = { left with state := .handover } ∧ t.csq = s.csq ∧
              t.fcu = s.fcu ∧ t.gat = s.gat ∧ t.ilc = s.ilc ∧ t.iiu = u.iiu ∧ t.cfg = s.cfg ∧ t.now = s.now) ∧
          (forelineValveOpen s = false →
            ∃ t, exec (.qualifiedChangeNotice o i) s = .next t ∧ Decided (u.modFla (fun _ => left)) t))) ∧
      (o = .fla → (i = .emo ∧ n.level = false ∨ i = .foreOk ∧ n.level = true) →
        (s.fla.state ≠ .idle ∨ grantBlocked s = true → exec (.qualifiedChangeNotice o i) s = .next (u.modSvl Svl.transmit)) ∧
        (s.fla.state = .idle → grantBlocked s = false → ∃ t, exec (.qualifiedChangeNotice o i) s = .next t ∧ Decided u t)) ∧
      (∀ m : Cabinet, o = .gat → i = .cabOk m → n.level = false →
        ∃ t, exec (.qualifiedChangeNotice o i) s = .next t ∧ t.iiu = u.iiu ∧ t.cfg = s.cfg ∧ t.now = s.now ∧
          ∀ l : Line, t.ln l =
            if (s.cfg.lines.look l).any (fun r => decide (r.cabinet = m)) = true ∧
              ((s.ln l).state = .ready ∨ (s.ln l).state = .pumpoutPending ∨ (s.ln l).state = .pumpingOut)
            then { s.ln l with state := .lockedOut } else s.ln l))

/-! ## Arcs and valves (R20, R58, R128) -/

/-- An edge while the merge timer runs is merged. Another starts the merge timer and is counted in the phases that count arcs:
the count that passes a limit above 0 faults the chamber with ARC_LIMIT; elsewhere it is ignored. The merge timer stops at its
expiry (R128).
The model's choices in it: notes/assumptions/2.md, notes/assumptions/7.md, notes/assumptions/8.md, notes/assumptions/26.md. -/
def Obligations.ArcsMergeAndCount : Prop :=
  ∀ (s : State) (c : Chamber), Served s →
    ((s.iiu.merge.look c).isSome = true → exec (.arcEdge c) s =
      .next ((s.modIiu (fun u => { u with arcRaw := u.arcRaw.put c true })).modSvl Svl.transmit)) ∧
    ((s.iiu.merge.look c) = none →
      let u := s.modIiu (fun u =>
        { u with arcRaw := u.arcRaw.put c true, merge := u.merge.put c (some (s.now + Config.arcMergeMs)) })
      (((s.ch c).running && (s.ch c).phase.countsArcs) = false → exec (.arcEdge c) s = .next (u.modSvl Svl.transmit)) ∧
      (∀ e, ((s.ch c).running && (s.ch c).phase.countsArcs) = true → (s.ch c).exec = some e →
        (e.record.arcLimit = 0 ∨ min (e.arcs + 1) Config.arcCountMax ≤ e.record.arcLimit →
          exec (.arcEdge c) s = .next ((u.modCh c (fun q =>
            { q with exec := some { e with arcs := min (e.arcs + 1) Config.arcCountMax } })).modSvl Svl.transmit)) ∧
        (0 < e.record.arcLimit → e.record.arcLimit < min (e.arcs + 1) Config.arcCountMax →
          ∃ t, exec (.arcEdge c) s = .next t ∧ FaultedNow u t c .arcLimit))) ∧
    (timerDue s (s.iiu.merge.look c) = true → exec (.arcMergeExpiry c) s =
      .next ((s.modIiu (fun u => { u with merge := u.merge.put c none })).modSvl Svl.transmit)) ∧
    (timerDue s (s.iiu.merge.look c) = false → Idles (.arcMergeExpiry c) s)

/-- A travel that has run out ends: in a chamber that executes nothing, outside HANDOVER, only the position changes. Once GATE and
VENT are closed a chamber that roughs opens its rough valves, and its rough timer runs; once GATE and the rough valves are
closed VENT_ISOLATE goes on to VENTING; once the rough valves and VENT are closed CROSSOVER opens GATE, or the chamber is
faulted with FORELINE_LOST or TURBO; the gate's opening travel in CROSSOVER takes the chamber into HIGH_VAC with its base timer
loaded. The last travel of a rough valve or a line pump valve in HANDOVER ends HANDOVER with the grant decision; until then
HANDOVER goes on. A travel that has not run out changes nothing (R14, R20, R45, R46, R47, R51, R52, R55, R58, R62, R63).
The model's choices in it: notes/assumptions/2.md, notes/assumptions/7.md, notes/assumptions/8.md, notes/assumptions/9.md,
notes/assumptions/11.md, notes/assumptions/25.md, notes/assumptions/38.md. -/
def Obligations.ValveTravelsEnd : Prop :=
  (∀ (s : State) (c : Chamber) (v : ChamberValve), Served s →
    (((s.ch c).valve v).travelDue s = false → Idles (.valveTravelExpiry c v) s) ∧
    (((s.ch c).valve v).travelDue s = true → (s.ch c).state ≠ .running → (s.ch c).exec = none → s.fla.state ≠ .handover →
      exec (.valveTravelExpiry c v) s =
        .next ((s.modCh c (fun q => q.setValve v (q.valve v).expire)).modSvl Svl.transmit)) ∧
    (∀ (e : StepCtx) (d : Nat), (s.ch c).inPhase .crossover = true → (s.ch c).exec = some e → Out s c → v = .gate →
      (s.ch c).gate = { cmd := true, pos := .opening d } → d ≤ s.now →
      ∃ t, exec (.valveTravelExpiry c v) s = .next t ∧ FrameOf c s t ∧ (t.ch c).state = .running ∧
        (t.ch c).phase = .highVac ∧ (t.ch c).gate = { cmd := true, pos := .opened } ∧ (t.ch c).vac = (s.ch c).vac ∧
        ∃ e', (t.ch c).exec = some e' ∧ e'.record = e.record ∧
          e'.baseTimer = some (s.now + (s.cfg.chambers.look c).baseTimeoutS * 1000) ∧
          e'.mainAt = some (e.mainAt.getD s.now)) ∧
    (((s.ch c).valve v).travelDue s = true → s.fla.state = .handover →
      let u := s.modCh c (fun q => q.setValve v (q.valve v).expire)
      let stopped := u.modCh c (fun q => { q with
        exec := if (u.ch c).roughOpen then q.exec
          else q.exec.map (fun e => { e with roughHeld := e.roughElapsed s.now, roughSince := none }) })
      ((∀ p ∈ [Phase.roughSoft, .roughFast, .ventIsolate, .crossover], (s.ch c).inPhase p = false) →
        (forelineValveOpen u = true → exec (.valveTravelExpiry c v) s = .next (stopped.modSvl Svl.transmit)) ∧
        (forelineValveOpen u = false → ∃ t, exec (.valveTravelExpiry c v) s = .next t ∧ Decided stopped t)) ∧
      ((s.ch c).inPhase .crossover = true ∨ (s.ch c).inPhase .ventIsolate = true → (s.ch c).exec.isSome = true → Out s c →
        QueueApart s → forelineValveOpen u = false →
        ∃ t, exec (.valveTravelExpiry c v) s = .next t ∧ ForelineDecided u t)) ∧
    (((s.ch c).valve v).travelDue s = true →
      let u := s.modCh c (fun q => q.setValve v (q.valve v).expire)
      ∀ e, (s.ch c).exec = some e →
        ((s.ch c).inPhase .roughSoft = true ∨ (s.ch c).inPhase .roughFast = true → s.fla.holder = some (.chamber c) →
          s.fla.state = .heldChamber → (u.ch c).gate.isClosed = true → (u.ch c).vent.isClosed = true → s.iiu.forcing = false →
          ∃ t, exec (.valveTravelExpiry c v) s = .next t ∧ FrameOf c s t ∧ t.fla = s.fla ∧ (t.ch c).state = .running ∧
            (t.ch c).phase = (s.ch c).phase ∧ (t.ch c).roughSoft.cmd = true ∧ (t.ch c).roughSoft.countsOpen = true ∧
            ((s.ch c).phase = .roughFast → (t.ch c).roughFast.cmd = true ∧ (t.ch c).roughFast.countsOpen = true) ∧
            ∃ e', (t.ch c).exec = some e' ∧ e'.record = e.record ∧ e'.roughSince.isSome = true ∧
              e'.roughElapsed s.now = e.roughElapsed s.now) ∧
        ((s.ch c).inPhase .ventIsolate = true → Out s c →
          ((u.ch c).mayOpenVent = true →
            ∃ t, exec (.valveTravelExpiry c v) s = .next t ∧ FrameOf c s t ∧ (t.ch c).state = .running ∧
              (t.ch c).phase = .venting ∧ (t.ch c).vac = .unknown ∧ (t.ch c).vent.cmd = true ∧
              ∃ e', (t.ch c).exec = some e' ∧ e'.record = e.record ∧ e'.mainAt = some (e.mainAt.getD s.now) ∧
                e'.ventTimer = some (s.now + (s.cfg.chambers.look c).ventTimeoutS * 1000)) ∧
          ((u.ch c).mayOpenVent = false →
            ∃ t, exec (.valveTravelExpiry c v) s = .next t ∧ FrameOf c s t ∧ Executes t c e.record .ventIsolate ∧
              (t.ch c).vent = (u.ch c).vent ∧ (t.ch c).vac = (s.ch c).vac)) ∧
        ((s.ch c).inPhase .crossover = true → Out s c → (u.ch c).gate.cmd = false →
          ((u.ch c).mayOpenGate = false →
            ∃ t, exec (.valveTravelExpiry c v) s = .next t ∧ FrameOf c s t ∧ Executes t c e.record .crossover ∧
              (t.ch c).gate = (u.ch c).gate) ∧
          ((u.ch c).mayOpenGate = true →
            (foreOk s = true → turboOk s c = true →
              ∃ t, exec (.valveTravelExpiry c v) s = .next t ∧ FrameOf c s t ∧ Executes t c e.record .crossover ∧
                (t.ch c).gate = (u.ch c).gate.commandOpen s.now (s.cfg.chambers.look c).gateTravel s.iiu.forcing) ∧
            (foreOk s = false → ∃ t, exec (.valveTravelExpiry c v) s = .next t ∧ FaultedNow u t c .forelineLost) ∧
            (foreOk s = true → turboOk s c = false →
              ∃ t, exec (.valveTravelExpiry c v) s = .next t ∧ FaultedNow u t c .turbo))))) ∧
  (∀ (s : State) (l : Line), Served s →
    ((s.fla.pumps.look l).travelDue s = false → Idles (.linePumpValveTravelExpiry l) s) ∧
    ((s.fla.pumps.look l).travelDue s = true →
      let u := s.modFla (fun a => { a with pumps := a.pumps.put l (a.pumps.look l).expire })
      (s.fla.state ≠ .handover ∨ forelineValveOpen u = true →
        exec (.linePumpValveTravelExpiry l) s = .next (u.modSvl Svl.transmit)) ∧
      (s.fla.state = .handover → forelineValveOpen u = false →
        ∃ t, exec (.linePumpValveTravelExpiry l) s = .next t ∧ t.fla.state ≠ .handover ∧ t.gat = s.gat ∧ t.fcu = s.fcu ∧
          t.ilc = s.ilc ∧ t.cfg = s.cfg ∧ t.iiu = s.iiu ∧ t.now = s.now ∧
          (grantBlocked s = true → t.fla.state = .idle ∧ t.fla.holder = none ∧ t.csq = s.csq) ∧ Decided u t)))

/-! ## Timers of the executing step -/

/-- The expiry of a limit fails the executing step with its own result and faults the chamber: ROUGH_TIMEOUT, BASE_TIMEOUT,
VENT_TIMEOUT, ADMIT_TIMEOUT, SETTLE_TIMEOUT, STRIKE_FAIL, NO_ENDPOINT, PRESSURE_EXCURSION, FLOW_DEVIATION; STEPEND, the STEPEND
of a flushed step, FAULT and CHSTATE are posted in this order. A deviation timer's expiry in a chamber neither RUNNING nor HELD
stops the timer and does nothing else: R108 says so of FAULTED, and for READY and OFFLINE it is the model's choice,
notes/assumptions/28.md (R47, R53, R57, R91, R108, R118, R120, R123, R126, R7, R15, R36).
The model's choices in it: notes/assumptions/7.md, notes/assumptions/8.md, notes/assumptions/28.md. -/
def Obligations.ExpiredLimitsFaultChamber : Prop :=
  ∀ (s : State) (c : Chamber), Served s →
    (∀ e, (s.ch c).exec = some e → (s.ch c).state = .running →
      (roughDue s c = true → ∃ t, exec (.roughTimerExpiry c) s = .next t ∧ FaultedNow s t c .roughTimeout) ∧
      (Expired s c .highVac e e.baseTimer → ∃ t, exec (.baseTimerExpiry c) s = .next t ∧ FaultedNow s t c .baseTimeout) ∧
      (Expired s c .venting e e.ventTimer → ∃ t, exec (.ventTimerExpiry c) s = .next t ∧ FaultedNow s t c .ventTimeout) ∧
      (Expired s c .admission e (s.ch c).admitTimer → ∃ t, exec (.admitTimerExpiry c) s = .next t ∧ FaultedNow s t c .admitTimeout) ∧
      (Expired s c .settle e e.settleLimit →
        ∃ t, exec (.settleLimitExpiry c) s = .next t ∧ FaultedNow s t c .settleTimeout) ∧
      (Expired s c .strike e e.strikeTimer → ∃ t, exec (.strikeTimerExpiry c) s = .next t ∧ FaultedNow s t c .strikeFail) ∧
      (Expired s c .etch e e.duration → e.record.endMode = .endpoint →
        ∃ t, exec (.durationExpiry c) s = .next t ∧ FaultedNow s t c .noEndpoint) ∧
      (timerDue s e.excursion = true →
        ∃ t, exec (.excursionExpiry c) s = .next t ∧ FaultedNow s t c .pressureExcursion)) ∧
    (∀ k : Channel, deviationDue s c k = true → ((s.ch c).state = .running ∨ (s.ch c).state = .held) →
      ∃ t, exec (.deviationExpiry c k) s = .next t ∧ FaultedNow s t c .flowDeviation) ∧
    (∀ k : Channel, deviationDue s c k = true → (s.ch c).state ≠ .running → (s.ch c).state ≠ .held →
      exec (.deviationExpiry c k) s =
        .next ((s.modChan c k (fun x => { x with deviation := none })).modSvl Svl.transmit))

/-- A timer of a step, a hold timer or a deviation timer that has not run out, or does not run, changes nothing at its command
(R47, R53, R57, R91, R108, R114, R117, R118, R119, R120, R123, R125, R127, R134).
The model's choices in it: notes/assumptions/2.md, notes/assumptions/35.md. -/
def Obligations.RunningTimersDoNothing : Prop :=
  ∀ (s : State) (c : Chamber), Served s →
    (timerDue s (s.ch c).hold = false → Idles (.holdExpiry c) s) ∧
    (roughDue s c = false → Idles (.roughTimerExpiry c) s) ∧
    (timerDue s (s.ch c).admitTimer = false → Idles (.admitTimerExpiry c) s) ∧
    (∀ x ∈ [(Instr.baseTimerExpiry c, fun e : StepCtx => e.baseTimer), (.ventTimerExpiry c, (·.ventTimer)),
        (.purgeTimerExpiry c, (·.purgeTimer)), (.settleTimerExpiry c, (·.settleTimer)),
        (.settleLimitExpiry c, (·.settleLimit)), (.durationExpiry c, (·.duration)), (.excursionExpiry c, (·.excursion)),
        (.strikeTimerExpiry c, (·.strikeTimer)), (.maskExpiry c, (·.maskTimer)), (.overetchExpiry c, (·.overetchTimer)),
        (.cyclePhaseExpiry c, (·.cycleTimer))],
      timerDue s ((s.ch c).exec.bind x.2) = false → Idles x.1 s) ∧
    (∀ k : Channel, deviationDue s c k = false → Idles (.deviationExpiry c k) s)

/-- A step whose last phase completes ends OK: its report is filed, RF goes off, and with no step waiting a process step leaves the
chamber HELD with flows, holdings, throttle and valves as they are and the hold timer loaded, or READY where the hold limit is
0; a PURGE step may have cleaned the manifold; a waiting step starts at once. So at the duration's expiry in STEADY, PURGING
and a timed ETCH, at the overetch's, and at the end of the last cycle. STEPEND is posted first, then CHSTATE or the STEPBEGIN
of the waiting step. A PUMPDOWN step ends OK at a reading at its target in HIGH_VAC, with HIGHVAC and GATE as it is, a VENT
step at atmosphere in VENTING, with VENT commanded closed; each leaves the chamber READY, or the waiting step started. The hold
timer's expiry takes HELD to READY (R6, R7, R8, R9, R18, R19, R52, R56, R93, R119, R124, R127, R129, R136).
The model's choices in it: notes/assumptions/7.md, notes/assumptions/8.md, notes/assumptions/9.md, notes/assumptions/11.md,
notes/assumptions/13.md, notes/assumptions/38.md, notes/assumptions/39.md, notes/assumptions/50.md. -/
def Obligations.CompletedStepHoldsChamber : Prop :=
  (∀ (s : State) (c : Chamber) (e : StepCtx) (x : Instr), Served s →
    (x = .durationExpiry c ∧ (Expired s c .steady e e.duration ∨ Expired s c .purging e e.duration ∨
        Expired s c .etch e e.duration ∧ e.record.endMode = .time) ∨
      x = .overetchExpiry c ∧ Expired s c .overetch e e.overetchTimer ∨
      x = .cyclePhaseExpiry c ∧ Expired s c .cyclingB e e.cycleTimer ∧ e.cycles + 1 = e.record.cycleCount) →
    (LastStep s c e → ∃ t, exec x s = .next t ∧ EndedOk s t c e) ∧
    (∀ w, e.slot = (s.ch c).runPtr.other → (s.ch c).slot (s.ch c).runPtr = some w → Out s c → QueueApart s →
      ∃ t, exec x s = .next t ∧ FrameOf c s t ∧ ReportedAs t c e.record.id .ok ∧ (t.ch c).runPtr = (s.ch c).runPtr.other ∧
        PostedFirst s t [.stepend c e.record.id .ok, .stepbegin c w.id w.kind] ∧
        (CleansManifold s c e.record → StepStarted (s.modCh c (fun q => { q with residue := cleanResidue })) t c w) ∧
        (¬CleansManifold s c e.record → StepStarted s t c w))) ∧
  (∀ (s : State) (bs : BusReply) (c : Chamber) (process wide : Option Nat) (v : Nat) (e : StepCtx), Served s →
    GaugeReading s bs c process wide (some v) → (s.ch c).exec = some e → e.slot = (s.ch c).runPtr.other → Out s c →
    ((s.ch c).inPhase .highVac = true → e.record.kind = .pumpdown → v ≤ e.record.targetA →
      ∃ t, exec (.instrumentReply bs) s = .next t ∧ ReadingFrame c s t ∧ ReportedAs t c e.record.id .ok ∧
        ((s.ch c).slot (s.ch c).runPtr = none →
          EnteredReady t c ∧ (t.ch c).vac = .highvac ∧ (t.ch c).gate = (s.ch c).gate ∧ (t.ch c).vent = (s.ch c).vent ∧
          ((∀ x, s.ilc.inFlight = some x → (s.pollDyn x.entry).state = .ok) →
             PostedFirst s t [.stepend c e.record.id .ok, .chstate c .ready .none .highvac])) ∧
        (∀ w, (s.ch c).slot (s.ch c).runPtr = some w → QueueApart s → StepStarted
          (s.modCh c (fun q => { q.withReadings process wide (some v) with vac := .highvac })) t c w)) ∧
    ((s.ch c).inPhase .venting = true → e.record.kind = .vent → (s.cfg.chambers.look c).atmosphere ≤ v →
      ∃ t, exec (.instrumentReply bs) s = .next t ∧ ReadingFrame c s t ∧ ReportedAs t c e.record.id .ok ∧
        ((s.ch c).slot (s.ch c).runPtr = none →
          EnteredReady t c ∧ (t.ch c).vac = .atmosphere ∧ (t.ch c).gate = (s.ch c).gate ∧
          (t.ch c).vent = (s.ch c).vent.commandClose s.now (s.cfg.chambers.look c).ventTravel ∧
          ((∀ x, s.ilc.inFlight = some x → (s.pollDyn x.entry).state = .ok) →
             PostedFirst s t [.stepend c e.record.id .ok, .chstate c .ready .none .atmosphere])) ∧
        (∀ w, (s.ch c).slot (s.ch c).runPtr = some w → QueueApart s → StepStarted
          (s.modCh c (fun q => { q.withReadings process wide (some v) with
            vac := .atmosphere, vent := q.vent.commandClose s.now (s.cfg.chambers.look c).ventTravel })) t c w))) ∧
  (∀ (s : State) (c : Chamber), Served s → (s.ch c).state = .held → timerDue s (s.ch c).hold = true →
    ∃ t, exec (.holdExpiry c) s = .next t ∧ FrameOf c s t ∧ EnteredReady t c ∧ SensedAs s t c ∧
      (t.ch c).vac = (s.ch c).vac ∧ (t.ch c).reports = (s.ch c).reports ∧
      PostedFirst s t [.chstate c .ready .none (s.ch c).vac])

/-- The manifold purge ends with the step's own flows and throttle target, in PURGING for a PURGE step and else in SETTLE with the
settle limit loaded; a settled STABILIZE chamber enters STEADY for its duration, and a settled PLASMA or CYCLE chamber enters
STRIKE with RF on at the phase A setpoints, or is faulted with the input that forbids RF. A gauge reading runs or stops the
settle timer, or settles the chamber at once; in the watched phases it runs or stops the excursion timer, and in the main
phases the minimum and maximum take it; elsewhere it is only kept. A SOURCE reading of a transaction built in STRIKE confirms
the strike when forward is at least 80 % of the setpoint and reflected at most 20 % of forward: ETCH or CYCLING_A is entered
with its timers (R18, R19, R21, R93, R94, R114, R116, R117, R120, R121, R122, R129).
The model's choices in it: notes/assumptions/7.md, notes/assumptions/15.md, notes/assumptions/50.md. -/
def Obligations.PurgeAndSettleGoOn : Prop :=
  (∀ (s : State) (c : Chamber) (e : StepCtx), Served s → Out s c →
    (Expired s c .manifoldPurge e e.purgeTimer → exhOk s = true →
      ∃ t, exec (.purgeTimerExpiry c) s = .next t ∧ FrameOf c s t ∧ (t.ch c).state = .running ∧
        (∀ k : Channel, (t.chan c k).target = e.record.cmdA k) ∧
        (t.ch c).throttle = .pressure e.record.targetA ∧ (t.ch c).holdings = dropPurge e.record (s.ch c).holdings ∧
        (∀ g : GasClass, (t.ch c).residue.look g = true →
          g = 0 ∨ ∃ k : Channel, channelClass s c k = some g ∧ 0 < e.record.cmdA k) ∧
        ∃ e', (t.ch c).exec = some e' ∧ e'.record = e.record ∧ e'.purgeTimer = none ∧
          (e.record.kind = .purge → (t.ch c).phase = .purging ∧ e'.duration = some (s.now + e.record.durationMs)) ∧
          (e.record.kind ≠ .purge → (t.ch c).phase = .settle ∧
            e'.settleLimit = some (s.now + (s.cfg.chambers.look c).settleLimitS * 1000) ∧ e'.settleTimer = none)) ∧
    (Expired s c .settle e e.settleTimer →
      (e.record.kind = .stabilize →
        ∃ t, exec (.settleTimerExpiry c) s = .next t ∧ FrameOf c s t ∧ (∀ k : Channel, t.chan c k = s.chan c k) ∧
          t.ch c = { s.ch c with
            phase := .steady
            exec := some { e with settleLimit := none, settleTimer := none, excursion := none,
                                  duration := some (s.now + e.record.durationMs),
                                  mainAt := some (e.mainAt.getD s.now) } }) ∧
      (e.record.kind ≠ .stabilize → emoAsserted s = false → lidClosed s c = true → exhOk s = true →
        ∃ t, exec (.settleTimerExpiry c) s = .next t ∧ FrameOf c s t ∧ (∀ k : Channel, t.chan c k = s.chan c k) ∧
          t.ch c = { s.ch c with
            phase := .strike, rfEn := true, source := e.record.sourceA, bias := e.record.biasA
            exec := some { e with settleLimit := none, settleTimer := none, excursion := none,
                                  strikeTimer := some (s.now + (s.cfg.chambers.look c).strikeMs) } }) ∧
      (∀ cause, e.record.kind ≠ .stabilize →
        (cause = .emo ∧ emoAsserted s = true ∨
          cause = .lid ∧ emoAsserted s = false ∧ lidClosed s c = false ∨
          cause = .exhaust ∧ emoAsserted s = false ∧ lidClosed s c = true ∧ exhOk s = false) →
        ∃ t, exec (.settleTimerExpiry c) s = .next t ∧ FaultedFrom s t c cause))) ∧
  (∀ (s : State) (bs : BusReply) (c : Chamber) (process wide p : Option Nat) (e : StepCtx), Served s →
    GaugeReading s bs c process wide p → (s.ch c).state = .running → (s.ch c).exec = some e →
    ((s.ch c).phase = .settle →
      (inBand p e.record.targetA e.record.tolerance = false ∨ e.settleTimer ≠ none ∨ e.record.settleMs ≠ 0 →
        ∃ t, exec (.instrumentReply bs) s = .next t ∧ ReadingFrame c s t ∧
          t.ch c = { (s.ch c).withReadings process wide p with exec := some { e with
            settleTimer := if inBand p e.record.targetA e.record.tolerance
              then some (e.settleTimer.getD (s.now + e.record.settleMs)) else none } }) ∧
      (inBand p e.record.targetA e.record.tolerance = true → e.settleTimer = none → e.record.settleMs = 0 →
        (e.record.kind = .stabilize →
          ∃ t, exec (.instrumentReply bs) s = .next t ∧ ReadingFrame c s t ∧
            t.ch c = { (s.ch c).withReadings process wide p with
              phase := .steady
              exec := some { e with settleLimit := none, excursion := none, duration := some (s.now + e.record.durationMs),
                                    mainAt := some (e.mainAt.getD s.now) } }) ∧
        (e.record.kind ≠ .stabilize → emoAsserted s = false → lidClosed s c = true → exhOk s = true →
          ∃ t, exec (.instrumentReply bs) s = .next t ∧ ReadingFrame c s t ∧
            t.ch c = { (s.ch c).withReadings process wide p with
              phase := .strike, rfEn := true, source := e.record.sourceA, bias := e.record.biasA
              exec := some { e with settleLimit := none, excursion := none,
                                    strikeTimer := some (s.now + (s.cfg.chambers.look c).strikeMs) } }))) ∧
    (∀ target, e.watchTarget (s.ch c).phase = some target →
      ∃ t, exec (.instrumentReply bs) s = .next t ∧ ReadingFrame c s t ∧
        t.ch c = { (s.ch c).withReadings process wide p with
          exec := some { e with minMax := e.tracked p, excursion := e.watched s c p target } }) ∧
    ((s.ch c).phase = .purging ∨
        (s.ch c).phase = .highVac ∧ (∀ v, p = some v → e.record.targetA < v) ∨
        (s.ch c).phase = .venting ∧ (∀ v, p = some v → v < (s.cfg.chambers.look c).atmosphere) →
      ∃ t, exec (.instrumentReply bs) s = .next t ∧ ReadingFrame c s t ∧
        t.ch c = { (s.ch c).withReadings process wide p with exec := some { e with minMax := e.tracked p } }) ∧
    ((s.ch c).phase = .crossover ∨ (s.ch c).phase = .admission ∨ (s.ch c).phase = .manifoldPurge ∨ (s.ch c).phase = .strike ∨
        (s.ch c).phase = .ventIsolate →
      ∃ t, exec (.instrumentReply bs) s = .next t ∧ ReadingFrame c s t ∧ t.ch c = (s.ch c).withReadings process wide p)) ∧
  (∀ (s : State) (bs : BusReply) (c : Chamber) (x : Txn) (data : List Byte) (e : StepCtx), Served s →
    GivesReading s bs x (.chamber c) .source data → (s.ch c).inPhase .strike = true → (s.ch c).exec = some e →
    let forward := field data 0 2
    let reflected := field data 2 2
    (x.beforeStrike = true ∨ forward * 10 < e.record.sourceA * 8 ∨ forward < reflected * 5 →
      ∃ t, exec (.instrumentReply bs) s = .next t ∧ ReadingFrame c s t ∧
        t.ch c = { s.ch c with genReading := some (forward, reflected) }) ∧
    (x.beforeStrike = false → e.record.sourceA * 8 ≤ forward * 10 → reflected * 5 ≤ forward →
      (e.record.kind = .cycle →
        ∃ t, exec (.instrumentReply bs) s = .next t ∧ ReadingFrame c s t ∧
          t.ch c = { s.ch c with
            genReading := some (forward, reflected), phase := .cyclingA
            exec := some { e with strikeTimer := none, excursion := none, mainAt := some (e.mainAt.getD s.now),
                                  cycleTimer := some (s.now + e.record.phaseAMs + e.record.firstExtMs) } }) ∧
      (e.record.kind ≠ .cycle →
        (e.record.endMode = .time ∨ 0 < e.record.maskMs ∨ endpointAsserted s c = false) →
        ∃ t, exec (.instrumentReply bs) s = .next t ∧ ReadingFrame c s t ∧ (t.ch c).state = .running ∧ (t.ch c).phase = .etch ∧
          (t.ch c).genReading = some (forward, reflected) ∧ (t.ch c).rfEn = (s.ch c).rfEn ∧
          ∃ e', (t.ch c).exec = some e' ∧ e'.record = e.record ∧ e'.strikeTimer = none ∧ e'.etchAt = some s.now ∧
            e'.mainAt = some (e.mainAt.getD s.now) ∧ e'.duration = some (s.now + e.record.durationMs) ∧
            (e.record.endMode = .endpoint → 0 < e.record.maskMs → e'.maskTimer = some (s.now + e.record.maskMs) ∧
              e'.maskDone = e.maskDone) ∧
            (e.record.endMode = .endpoint → e.record.maskMs = 0 → e'.maskTimer = none ∧ e'.maskDone = true))))

/-- At the mask's expiry in ETCH the endpoint is watched from then on; if ENDPOINT stands asserted it is reached, and an
overetch of (e x p + 99) div 100 ms, at most 3,600,000, is entered, or the step ends OK at once where that is 0. A cycle phase's
expiry switches between the phases with their targets and setpoints, posting nothing and counting a cycle at the end of phase B;
the class of each line whose stick valve the switch opens joins the residue; where a stick valve would open with EXH_OK not true
the chamber is faulted with EXHAUST (R14, R93, R102, R125, R127, R134, R135).
The model's choices in it: notes/assumptions/7.md, notes/assumptions/8.md. -/
def Obligations.EndpointAndCycleGoOn : Prop :=
  (∀ (s : State) (c : Chamber) (e : StepCtx), Served s → Expired s c .etch e e.maskTimer →
    (endpointAsserted s c = false →
      exec (.maskExpiry c) s = .next ((s.modCh c (fun q =>
        { q with exec := some { e with maskTimer := none, maskDone := true } })).modSvl Svl.transmit)) ∧
    (∀ t0, endpointAsserted s c = true → e.etchAt = some t0 → 0 < (s.now - t0) * e.record.overetchPct →
      ∃ t, exec (.maskExpiry c) s = .next t ∧ FrameOf c s t ∧ (∀ k : Channel, t.chan c k = s.chan c k) ∧
        t.ch c = { s.ch c with
          phase := .overetch
          exec := some { e with
            maskTimer := none, maskDone := true, endpointMs := some (s.now - t0), duration := none, excursion := none,
            overetchTimer := some (s.now + min (((s.now - t0) * e.record.overetchPct + 99) / 100) 3600000),
            overetchAt := some s.now } }) ∧
    (∀ t0, endpointAsserted s c = true → e.etchAt = some t0 → (s.now - t0) * e.record.overetchPct = 0 → LastStep s c e →
      ∃ t, exec (.maskExpiry c) s = .next t ∧ EndedOk s t c e)) ∧
  (∀ (s : State) (c : Chamber) (e : StepCtx), Served s →
    (Expired s c .cyclingA e e.cycleTimer → exhOk s = false → wouldOpen c e.record.cmdB s = true →
      ∃ t, exec (.cyclePhaseExpiry c) s = .next t ∧ FaultedNow s t c .exhaust) ∧
    (Expired s c .cyclingB e e.cycleTimer → e.cycles + 1 ≠ e.record.cycleCount → exhOk s = false →
      wouldOpen c e.record.cmdA s = true →
      ∃ t, exec (.cyclePhaseExpiry c) s = .next t ∧ FaultedNow s t c .exhaust) ∧
    (Expired s c .cyclingA e e.cycleTimer → (exhOk s = true ∨ wouldOpen c e.record.cmdB s = false) →
      ∃ t, exec (.cyclePhaseExpiry c) s = .next t ∧ FrameOf c s t ∧ t.svl = s.svl.transmit ∧ t.gat = s.gat ∧ t.fla = s.fla ∧
        (∀ k : Channel, (t.chan c k).target = e.record.cmdB k) ∧
        (∀ g : GasClass, (t.ch c).residue.look g = true ↔ (s.ch c).residue.look g = true ∨
          ∃ k : Channel, (s.chan c k).target = 0 ∧ 0 < e.record.cmdB k ∧ channelClass s c k = some g) ∧
        (t.ch c).state = .running ∧ (t.ch c).phase = .cyclingB ∧ (t.ch c).throttle = .pressure e.record.targetB ∧
        (t.ch c).source = e.record.sourceB ∧ (t.ch c).bias = e.record.biasB ∧ (t.ch c).rfEn = (s.ch c).rfEn ∧
        (t.ch c).exec = some { e with firstCycle := false, excursion := none,
                                      cycleTimer := some (s.now + e.record.phaseBMs) }) ∧
    (Expired s c .cyclingB e e.cycleTimer → e.cycles + 1 ≠ e.record.cycleCount →
      (exhOk s = true ∨ wouldOpen c e.record.cmdA s = false) →
      ∃ t, exec (.cyclePhaseExpiry c) s = .next t ∧ FrameOf c s t ∧ t.svl = s.svl.transmit ∧ t.gat = s.gat ∧ t.fla = s.fla ∧
        (∀ k : Channel, (t.chan c k).target = e.record.cmdA k) ∧
        (∀ g : GasClass, (t.ch c).residue.look g = true ↔ (s.ch c).residue.look g = true ∨
          ∃ k : Channel, (s.chan c k).target = 0 ∧ 0 < e.record.cmdA k ∧ channelClass s c k = some g) ∧
        (t.ch c).state = .running ∧ (t.ch c).phase = .cyclingA ∧ (t.ch c).throttle = .pressure e.record.targetA ∧
        (t.ch c).source = e.record.sourceA ∧ (t.ch c).bias = e.record.biasA ∧ (t.ch c).rfEn = (s.ch c).rfEn ∧
        (t.ch c).exec = some { e with cycles := e.cycles + 1, excursion := none,
                                      cycleTimer := some (s.now + e.record.phaseAMs) }))

/-! ## The foreline's pump-outs and messages (chapter 4, R81) -/

/-- A complete pump-out leaves the list with its pump valve commanded closed, the complete message sent and the line no longer
the holder; a removal takes its line off the list, stopping it if it holds. A removal that does not wait, or no complete
pump-out, changes nothing (R65, R68).
The model's choices in it: notes/assumptions/2.md, notes/assumptions/7.md, notes/assumptions/9.md, notes/assumptions/25.md. -/
def Obligations.PumpoutsCompleteOrAreRemoved : Prop :=
  (∀ s : State, Served s →
    (completedLine s = none → Idles .pumpoutCompletion s) ∧
    (∀ l : Line, completedLine s = some l →
      ∃ t, exec .pumpoutCompletion s = .next t ∧ (∀ p ∈ t.fla.list, p.line ≠ l) ∧ t.fla.holder ≠ some (.line l) ∧
        t.fla.pumps.look l = (s.fla.pumps.look l).commandClose s.now s.cfg.pumpTravel ∧ (PumpMsg.complete, l) ∈ t.fla.toGat ∧
        t.gat = s.gat ∧ t.fcu = s.fcu ∧ t.ilc = s.ilc ∧ t.iiu = s.iiu ∧ t.cfg = s.cfg ∧ t.now = s.now)) ∧
  (∀ (s : State) (l : Line), Served s →
    (firstMsg l s.gat.toFla ≠ some .removal → Idles (.removalMessage l) s) ∧
    (firstMsg l s.gat.toFla = some .removal → firstMsg l (dropFirst l s.gat.toFla) ≠ some .listing →
      ∃ t, exec (.removalMessage l) s = .next t ∧ (∀ p ∈ t.fla.list, p.line ≠ l) ∧ t.fla.holder ≠ some (.line l) ∧
        t.gat = { s.gat with toFla := dropFirst l s.gat.toFla } ∧
        (s.fla.holder = some (.line l) →
          t.fla.pumps.look l = (s.fla.pumps.look l).commandClose s.now s.cfg.pumpTravel) ∧
        (s.fla.holder ≠ some (.line l) →
          t.fla = { s.fla with list := s.fla.list.filter (fun p => p.line ≠ l) } ∧ t.csq = s.csq) ∧
        t.fcu = s.fcu ∧ t.ilc = s.ilc ∧ t.iiu = s.iiu ∧ t.cfg = s.cfg ∧ t.now = s.now))

/-- The first waiting message about a line moves it: begun from PUMPOUT_PENDING to PUMPING_OUT, stopped back, complete from
PUMPING_OUT to READY, with a LINESTATE; in any other state it is ignored, and a message that does not wait changes nothing
(R76, R81).
The model's choices in it: notes/assumptions/2.md, notes/assumptions/9.md. -/
def Obligations.PumpMessagesMoveLine : Prop :=
  ∀ (s : State) (l : Line), Served s →
    ∀ x ∈ [(Instr.begunMessage l, PumpMsg.begun, LineState.pumpoutPending, LineState.pumpingOut, LineCause.begun),
        (.stoppedMessage l, .stopped, .pumpingOut, .pumpoutPending, .stopped),
        (.completeMessage l, .complete, .pumpingOut, .ready, .complete)],
      (firstMsg l s.fla.toGat ≠ some x.2.1 → Idles x.1 s) ∧
      (firstMsg l s.fla.toGat = some x.2.1 → (s.ln l).state ≠ x.2.2.1 →
        exec x.1 s = .next ((s.modFla (fun a => { a with toGat := dropFirst l a.toGat })).modSvl Svl.transmit)) ∧
      (firstMsg l s.fla.toGat = some x.2.1 → (s.ln l).state = x.2.2.1 →
        ∃ t, exec x.1 s = .next t ∧ t.ln l = { s.ln l with state := x.2.2.2.1 } ∧
          (∀ m : Line, m ≠ l → t.ln m = s.ln m) ∧ t.cfg = s.cfg ∧ t.iiu = s.iiu ∧ t.now = s.now ∧ t.ilc.poll = s.ilc.poll ∧
          (∀ c : Chamber, Out s c → t.ch c = s.ch c ∧ ∀ k : Channel, t.chan c k = s.chan c k) ∧
          (s.gat.queue = [] → t.fla = { s.fla with toGat := dropFirst l s.fla.toGat } ∧ t.csq = s.csq ∧
            (s.svl.tx ≠ none → Posted s t (.linestate l x.2.2.2.1 (allocated s l) x.2.2.2.2))))

/-- The grant decision gives an unblocked foreline to the first waiting chamber in chain order, which leaves the waiting set; with
nobody waiting, to the first line of the pump-out list, which begins, its pump valve opened and its progress running unless the
backing pause is set; one whose progress is already complete completes at once; with a block in force, or with nobody waiting and
no line listed, the foreline is IDLE (R62, R66, R68).
The model's choices in it: notes/assumptions/7.md, notes/assumptions/9.md, notes/assumptions/11.md, notes/assumptions/25.md. -/
def Obligations.GrantGoesToFirstInChain : Prop :=
  (∀ (s : State) (before after : List Chamber) (c : Chamber), grantBlocked s = false →
    s.cfg.chain = before ++ c :: after → (∀ d ∈ before, s.fla.waiting.look d = false) → s.fla.waiting.look c = true →
    (grantDecision s).fla.state = .heldChamber ∧ (grantDecision s).fla.holder = some (.chamber c) ∧
    ∀ d : Chamber, (grantDecision s).fla.waiting.look d = (decide (d ≠ c) && s.fla.waiting.look d)) ∧
  (∀ (s : State) (p : PumpEntry) (rest : List PumpEntry), grantBlocked s = false →
    (∀ d ∈ s.cfg.chain, s.fla.waiting.look d = false) → s.fla.list = p :: rest →
    (grantDecision s).csq = s.csq ∧ (grantDecision s).gat = s.gat ∧ (grantDecision s).fla.waiting = s.fla.waiting ∧
    (p.acc < pumpTimeMs s p.line →
      (grantDecision s).fla.state = .heldPumpout ∧ (grantDecision s).fla.holder = some (.line p.line) ∧
      (grantDecision s).fla.list = s.fla.list ∧ (grantDecision s).fla.pumpMs = pumpTimeMs s p.line ∧
      (grantDecision s).fla.toGat = s.fla.toGat ++ [(PumpMsg.begun, p.line)] ∧
      (s.fla.pause = false → (grantDecision s).fla.progress = some s.now ∧
        (grantDecision s).fla.pumps.look p.line = (s.fla.pumps.look p.line).commandOpen s.now s.cfg.pumpTravel s.iiu.forcing) ∧
      (s.fla.pause = true → (grantDecision s).fla.progress = none ∧ (grantDecision s).fla.pumps = s.fla.pumps)) ∧
    (pumpTimeMs s p.line ≤ p.acc → rest = [] →
      (grantDecision s).fla.state = .idle ∧ (grantDecision s).fla.holder = none ∧ (grantDecision s).fla.list = [] ∧
      (grantDecision s).fla.toGat = s.fla.toGat ++ [(PumpMsg.begun, p.line), (PumpMsg.complete, p.line)])) ∧
  (∀ s : State, (grantBlocked s = true ∨ (∀ d ∈ s.cfg.chain, s.fla.waiting.look d = false) ∧ s.fla.list = []) →
    (grantDecision s).fla.state = .idle ∧ (grantDecision s).fla.holder = none ∧
    (grantDecision s).fla.waiting = s.fla.waiting ∧ (grantDecision s).csq = s.csq)

/-! ## Admission (R87, R90) -/

/-- Every step keeps the capacity law: no configured line is allocated beyond its capacity, and no chamber stands twice in the
admission queue. A request that passes the admission test can replace the chamber's holdings: every line of it is READY, and the
line's allocated total with it is within the line's capacity. When EMO's release is told to the GAT the queue is served: a request
at the head that passes is admitted, and after the run no queued request passes (R75, R84, R85, R87, R88, R90).
The model's choices in it: notes/assumptions/2.md, notes/assumptions/10.md, notes/assumptions/22.md, notes/assumptions/24.md. -/
def Obligations.AdmissionStaysWithinCapacity : Prop :=
  (∀ s t : State, (∀ c : Chamber, ChamberLaw s c) → CapacityLaw s → step s = .next t → CapacityLaw t) ∧
  (∀ (s : State) (c : Chamber) (r : Request), admissible s c r = true → (r.wants.map (·.line)).Nodup →
    ∀ w ∈ r.wants, (s.ln w.line).state = .ready ∧
      ∃ cfg, s.cfg.lines.look w.line = some cfg ∧
        allocated (s.modCh c (fun q => { q with holdings := r.wants })) w.line ≤ cfg.capacity) ∧
  (∀ (s : State) (n : Notice), (∀ c : Chamber, ChamberLaw s c) → waitingNotice .gat .emo s = some n → n.level = false →
    emoAsserted s = false →
    ∃ t, exec (.qualifiedChangeNotice .gat .emo) s = .next t ∧ t.gat.lines = s.gat.lines ∧
      (∀ d ∈ t.gat.queue, d ∈ s.gat.queue) ∧
      (∀ (c : Chamber) (rq : Request), c ∈ t.gat.queue → (t.ch c).request = some rq → admissible t c rq = false) ∧
      (∀ (c : Chamber) (rest : List Chamber) (rq : Request), s.gat.queue = c :: rest → (s.ch c).request = some rq →
        admissible s c rq = true → exhOk s = true → (t.ch c).holdings = rq.wants ∧ c ∉ t.gat.queue ∧
          (t.ch c).request = none ∧ (t.ch c).state = .running ∧
          (t.ch c).phase = (if rq.purge then .manifoldPurge
            else if (s.ch c).exec.any (fun e => decide (e.record.kind = .purge)) then .purging else .settle)))

/-! ## The Instrument Link (chapter 9, R103 to R105) -/

/-- An instrument frame begins when it may. Countdowns are lowered; its list is the urgent entries, oldest mark first, then the due
entries in ascending number, at most the budget; the first of the list is in flight, numbered with the transactions built, its
request built from the owner's target, with a ramp update for a FLOW entry, and the entry served, and the rest of the list
waits; with an empty list nothing is in flight. A due entry left out is counted late, and at a count of 5 SATURATED is posted,
in ascending number; what is urgent beyond the budget waits on. While a frame is in progress, or before its 10 ms have passed,
nothing changes (R101, R144, R146, R147, R148, R149).
The model's choices in it: notes/assumptions/2.md, notes/assumptions/27.md, notes/assumptions/41.md, notes/assumptions/50.md. -/
def Obligations.InstrumentFrameBegins : Prop :=
  ∀ s : State, Served s →
    (frameMayBegin s = false → Idles .instrumentFrameBegin s) ∧
    (frameMayBegin s = true →
      ∃ t, exec .instrumentFrameBegin s = .next t ∧ t.ilc.frameAt = s.now ∧
        t.ilc.urgent = s.ilc.urgent.drop s.cfg.budget ∧
        (frameChosen s = [] → t.ilc.inFlight = none ∧ t.ilc.frameRest = []) ∧
        (∀ e rest, frameChosen s = e :: rest → t.ilc.frameRest = rest ∧
          t.ilc.inFlight = some { number := s.ilc.built, entry := e,
                                  request := requestBytes (s.cfg.poll.look e) (requestValue t (s.cfg.poll.look e)),
                                  discarded := false, beforeStrike := false } ∧ t.ilc.built = s.ilc.built + 1 ∧
          (∀ (c : Chamber) (k : Channel), ownerOf (s.cfg.poll.look e).owner = some (.chamber c) →
            roleOf (s.cfg.poll.look e).role = some (.flow k) →
            let m := (s.cfg.maps.look c).look k
            let n := rampStep (s.chan c k).current (s.chan c k).target m.ramp m.floor
            t.chan c k = { s.chan c k with current := n, lastSent := n } ∧
            ∀ (d : Chamber) (j : Channel), d ≠ c ∨ j ≠ k → t.chan d j = s.chan d j) ∧
          (t.pollDyn e).due = false ∧ (t.pollDyn e).late = 0 ∧ (t.pollDyn e).countdown = (s.cfg.poll.look e).period) ∧
        (0 < s.cfg.budget → (s.ilc.urgent ≠ [] ∨ ∃ e : EntryIx, dueAtFrame s e = true) → t.ilc.inFlight ≠ none) ∧
        (∀ e : EntryIx, (frameChosen s).head? ≠ some e →
          (t.pollDyn e).due = (dueAtFrame s e || (s.pollDyn e).due) ∧
          (t.pollDyn e).countdown = (if (s.cfg.poll.look e).used && !(s.pollDyn e).due then (s.pollDyn e).countdown - 1
            else (s.pollDyn e).countdown) ∧
          (t.pollDyn e).late = (if leftOut s e then min ((s.pollDyn e).late + 1) Config.lateCountMax else (s.pollDyn e).late)) ∧
        (∀ full, full = (allIx 96).filter (fun e => leftOut s e && decide ((s.pollDyn e).late + 1 = 5)) →
          s.svl.tx ≠ none → s.svl.mask.look Category.instr.ix = true →
          s.svl.events.length + full.length ≤ Config.eventQueueSize →
          t.svl = { s.svl with events := s.svl.events ++ full.map (fun e =>
            { tag := timeTag s, event := .saturated e (s.cfg.poll.look e).owner (s.cfg.poll.look e).role 5 }) }) ∧
        (∀ e : EntryIx, (t.pollDyn e).state = (s.pollDyn e).state ∧ (t.pollDyn e).misses = (s.pollDyn e).misses) ∧
        t.csq = s.csq ∧ t.fla = s.fla ∧ t.gat = s.gat ∧ t.iiu = s.iiu ∧ t.cfg = s.cfg ∧ t.now = s.now ∧
        (∀ (c : Chamber) (k : Channel), (t.chan c k).target = (s.chan c k).target))

/-- A valid flow reading is integrated: with M its measured value and the interval since the last reading, at most 1,000 ms, the
line's total and remainder take M x FS x G x interval in units of 1 / 600,000,000; the channel keeps M and the time tag. The
executing step's accumulator of the line takes the same; no other line changes. Where the target is above 0 the deviation timer
runs while M stands further from the last sent command than the tolerance, and stops otherwise. Valid THROTTLE, BIAS and SOURCE
readings are kept; so is a gauge's in a chamber not RUNNING, and the chamber pressure is chosen from the two (R18, R103, R104,
R105, R106, R107, R145, R150, R152).
The model's choices in it: notes/assumptions/50.md. -/
def Obligations.FlowReadingIntegrates : Prop :=
  (∀ (s : State) (x : Txn) (c : Chamber) (k : Channel) (data : List Byte) (l : Line) (r : LineCfg) (bs : BusReply),
    Served s → s.ilc.inFlight = some x → x.discarded = false →
    ownerOf (s.cfg.poll.look x.entry).owner = some (.chamber c) → roleOf (s.cfg.poll.look x.entry).role = some (.flow k) →
    ((s.cfg.maps.look c).look k).line = some l → s.cfg.lines.look l = some r →
    bs.txn = x.number → judgeReply (s.cfg.poll.look x.entry) (.flow k) bs.bytes = some data →
    ∃ t, exec (.instrumentReply bs) s = .next t ∧
      (let m := measured (bytesNat data)
       let dt := match (s.chan c k).lastTime with
         | none => 0
         | some last => min ((timeTag s + 4294967296 - last) % 4294967296) 1000
       let n := m * ((s.cfg.maps.look c).look k).fs * r.gcf * dt
       (t.ln l).total = min ((s.ln l).total + ((s.ln l).rem + n) / 600000000) 281474976710655 ∧
       (t.ln l).rem = ((s.ln l).rem + n) % 600000000 ∧ (t.ln l).state = (s.ln l).state ∧
       (t.chan c k).reading = some m ∧ (t.chan c k).lastTime = some (timeTag s) ∧
       (t.chan c k).target = (s.chan c k).target ∧
       (t.chan c k).deviation = (if (s.chan c k).target = 0 then (s.chan c k).deviation
         else if (s.cfg.chambers.look c).deviationTol < (m - (s.chan c k).lastSent) + ((s.chan c k).lastSent - m)
         then some ((s.chan c k).deviation.getD s.now) else none) ∧
       t.ch c = { s.ch c with exec := (s.ch c).exec.map (fun e =>
         { e with accums := e.accums.map (fun a => if a.line = l then a.integrate n else a) }) }) ∧
      (∀ j : Line, j ≠ l → t.ln j = s.ln j) ∧ (∀ d : Chamber, d ≠ c → t.ch d = s.ch d) ∧
      t.gat.queue = s.gat.queue ∧ t.fla = s.fla ∧ t.iiu = s.iiu ∧ t.cfg = s.cfg ∧ t.now = s.now) ∧
  (∀ (s : State) (bs : BusReply) (x : Txn) (c : Chamber) (data : List Byte), Served s →
    (GivesReading s bs x (.chamber c) .throttle data →
      ∃ t, exec (.instrumentReply bs) s = .next t ∧ ReadingFrame c s t ∧
        t.ch c = { s.ch c with throttlePos := some (bytesNat data) }) ∧
    (GivesReading s bs x (.chamber c) .bias data →
      ∃ t, exec (.instrumentReply bs) s = .next t ∧ ReadingFrame c s t ∧
        t.ch c = { s.ch c with biasReading := some (field data 0 2, field data 2 2) }) ∧
    (GivesReading s bs x (.chamber c) .source data → (s.ch c).inPhase .strike = false →
      ∃ t, exec (.instrumentReply bs) s = .next t ∧ ReadingFrame c s t ∧
        t.ch c = { s.ch c with genReading := some (field data 0 2, field data 2 2) })) ∧
  (∀ (s : State) (bs : BusReply) (c : Chamber) (process wide p : Option Nat), Served s →
    GaugeReading s bs c process wide p → (s.ch c).state ≠ .running →
    ∃ t, exec (.instrumentReply bs) s = .next t ∧ ReadingFrame c s t ∧ t.ch c = (s.ch c).withReadings process wide p ∧
      (∃ x, s.ilc.inFlight = some x ∧ (t.pollDyn x.entry).state = .ok ∧ (t.pollDyn x.entry).misses = 0))

/-- The end of a response window without a reply is a miss: misses one and two only count, the third makes the entry FAILED and
faults its chamber with INSTRUMENT; in an OFFLINE or FAULTED chamber it only takes the entry's reading away. A FAILED FORELINE
entry takes the foreline pressure and the backing pause away, faults a chamber that holds the foreline, and stops a line that
pumps out. A reply that does not judge valid is the same as a miss. A discarded transaction ends at its window with no miss,
and the next is built. With no transaction in flight, and for a reply of a discarded transaction or of one that is not in
flight, nothing changes; so the reply of a transaction whose window has expired is discarded (R69, R142, R144, R145, R150,
R151).
The model's choices in it: notes/assumptions/2.md, notes/assumptions/5.md, notes/assumptions/7.md, notes/assumptions/9.md,
notes/assumptions/27.md, notes/assumptions/46.md, notes/assumptions/50.md. -/
def Obligations.MissedRepliesFailInstrument : Prop :=
  ∀ s : State, Served s →
    (s.ilc.inFlight = none → Idles .responseWindowExpiry s ∧ ∀ bs, Idles (.instrumentReply bs) s) ∧
    (∀ x, s.ilc.inFlight = some x → ∀ bs, bs.txn ≠ x.number → Idles (.instrumentReply bs) s) ∧
    (∀ x t, s.ilc.inFlight = some x → x.number < s.ilc.built → exec .responseWindowExpiry s = .next t →
      ∀ bs, bs.txn = x.number → Idles (.instrumentReply bs) t) ∧
    (∀ x, s.ilc.inFlight = some x → x.discarded = true → (∀ bs, Idles (.instrumentReply bs) s) ∧
      ∃ t, exec .responseWindowExpiry s = .next t ∧ t.csq = s.csq ∧ t.fla = s.fla ∧ t.gat = s.gat ∧ t.iiu = s.iiu ∧
        t.cfg = s.cfg ∧ t.now = s.now ∧
        (∀ e : EntryIx, (t.pollDyn e).state = (s.pollDyn e).state ∧ (t.pollDyn e).misses = (s.pollDyn e).misses) ∧
        (∀ e rest, s.ilc.frameRest = e :: rest → t.ilc.frameRest = rest ∧
          ∃ y, t.ilc.inFlight = some y ∧ y.entry = e ∧ y.discarded = false) ∧
        (s.ilc.frameRest = [] → (s.cfg.enabled = false ∨ s.now < s.ilc.frameAt + 10) → t.ilc.inFlight = none)) ∧
    (∀ (x : Txn) (c : Chamber) (role : Role), s.ilc.inFlight = some x → x.discarded = false →
      ownerOf (s.cfg.poll.look x.entry).owner = some (.chamber c) → roleOf (s.cfg.poll.look x.entry).role = some role →
      ∀ i, (i = .responseWindowExpiry ∨
          ∃ bs, i = .instrumentReply bs ∧ bs.txn = x.number ∧ judgeReply (s.cfg.poll.look x.entry) role bs.bytes = none) →
        ((s.pollDyn x.entry).state ≠ .failed → (s.pollDyn x.entry).misses + 1 < Config.missLimit →
          ∃ t, exec i s = .next t ∧ (t.pollDyn x.entry).misses = (s.pollDyn x.entry).misses + 1 ∧
            (t.pollDyn x.entry).state = (s.pollDyn x.entry).state ∧ t.csq = s.csq ∧ t.fla = s.fla ∧ t.gat = s.gat ∧
            t.iiu = s.iiu ∧ t.cfg = s.cfg) ∧
        ((s.pollDyn x.entry).state ≠ .failed → Config.missLimit ≤ (s.pollDyn x.entry).misses + 1 →
          (s.ch c).state ≠ .offline → (s.ch c).state ≠ .faulted →
          ∃ t, exec i s = .next t ∧ (t.pollDyn x.entry).misses = Config.missLimit ∧
            (t.pollDyn x.entry).state = .failed ∧ FaultedWith t c .instrument ∧ t.gat.lines = s.gat.lines ∧
            t.iiu = s.iiu ∧ t.cfg = s.cfg ∧
            (∀ e, (s.ch c).state = .running → (s.ch c).exec = some e → ReportedAs t c e.record.id .instrument)) ∧
        ((s.pollDyn x.entry).state ≠ .failed → Config.missLimit ≤ (s.pollDyn x.entry).misses + 1 →
          ((s.ch c).state = .offline ∨ (s.ch c).state = .faulted) →
          ∃ t, exec i s = .next t ∧ (t.pollDyn x.entry).misses = Config.missLimit ∧
            (t.pollDyn x.entry).state = .failed ∧ (t.ch c).state = (s.ch c).state ∧ (t.ch c).cause = (s.ch c).cause ∧
            (t.ch c).reports = (s.ch c).reports ∧ (∀ d : Chamber, d ≠ c → t.ch d = s.ch d) ∧ t.fla = s.fla ∧ t.gat = s.gat ∧
            t.iiu = s.iiu ∧ t.cfg = s.cfg ∧
            (role = .gaugeProcess → (t.ch c).processReading = none) ∧ (role = .gaugeWide → (t.ch c).wideReading = none) ∧
            (∀ k : Channel, role = .flow k → (t.chan c k).lastTime = none ∧ (t.chan c k).deviation = none)) ∧
        ((s.pollDyn x.entry).state = .failed →
          ∃ t, exec i s = .next t ∧ (t.pollDyn x.entry).state = .failed ∧
            (t.pollDyn x.entry).misses = Config.missLimit ∧ t.csq = s.csq ∧ t.fla = s.fla)) ∧
    (∀ (x : Txn), s.ilc.inFlight = some x → x.discarded = false →
      ownerOf (s.cfg.poll.look x.entry).owner = some .tool → roleOf (s.cfg.poll.look x.entry).role = some .foreline →
      (s.pollDyn x.entry).state ≠ .failed → Config.missLimit ≤ (s.pollDyn x.entry).misses + 1 →
      ∀ i, (i = .responseWindowExpiry ∨
          ∃ bs, i = .instrumentReply bs ∧ bs.txn = x.number ∧ judgeReply (s.cfg.poll.look x.entry) .foreline bs.bytes = none) →
        ∃ t, exec i s = .next t ∧ (t.pollDyn x.entry).misses = Config.missLimit ∧ (t.pollDyn x.entry).state = .failed ∧
          t.fla.pressure = none ∧ t.fla.pause = false ∧ t.gat.lines = s.gat.lines ∧ t.iiu = s.iiu ∧ t.cfg = s.cfg ∧
          (s.fla.holder = none → t.csq = s.csq ∧ t.fla = { s.fla with pressure := none, pause := false }) ∧
          (∀ c : Chamber, s.fla.holder = some (.chamber c) → (s.ch c).state ≠ .offline → (s.ch c).state ≠ .faulted →
            FaultedWith t c .instrument ∧
            ∀ e, (s.ch c).state = .running → (s.ch c).exec = some e → ReportedAs t c e.record.id .instrument) ∧
          (∀ l : Line, s.fla.holder = some (.line l) → (s.fla.pumps.look l).countsOpen = true →
            t.csq = s.csq ∧ t.fla.state = .handover ∧ t.fla.holder = none ∧
            t.fla.pumps.look l = (s.fla.pumps.look l).commandClose s.now s.cfg.pumpTravel ∧
            t.fla.toGat = s.fla.toGat ++ [(PumpMsg.stopped, l)]))
end

