-- ==== Sys2Proof/Laws/State.lean ====
section
/-! SUPPORT. The lemmas of the state's updates: what each leaves of every field, and what it makes of its own. -/

namespace Sys2Proof.Machine

variable (s : State)

/-! ## modCh -/

@[simp] theorem State.modCh_now (c : Chamber) (f : Csq → Csq) : (s.modCh c f).now = s.now := rfl
@[simp] theorem State.modCh_cfg (c : Chamber) (f : Csq → Csq) : (s.modCh c f).cfg = s.cfg := rfl
@[simp] theorem State.modCh_fcu (c : Chamber) (f : Csq → Csq) : (s.modCh c f).fcu = s.fcu := rfl
@[simp] theorem State.modCh_gat (c : Chamber) (f : Csq → Csq) : (s.modCh c f).gat = s.gat := rfl
@[simp] theorem State.modCh_fla (c : Chamber) (f : Csq → Csq) : (s.modCh c f).fla = s.fla := rfl
@[simp] theorem State.modCh_ilc (c : Chamber) (f : Csq → Csq) : (s.modCh c f).ilc = s.ilc := rfl
@[simp] theorem State.modCh_iiu (c : Chamber) (f : Csq → Csq) : (s.modCh c f).iiu = s.iiu := rfl
@[simp] theorem State.modCh_svl (c : Chamber) (f : Csq → Csq) : (s.modCh c f).svl = s.svl := rfl
@[simp] theorem State.modCh_pending (c : Chamber) (f : Csq → Csq) : (s.modCh c f).pending = s.pending := rfl

@[simp] theorem State.modCh_chan (c : Chamber) (f : Csq → Csq) (d : Chamber) (j : Channel) : (s.modCh c f).chan d j = s.chan d j := rfl
@[simp] theorem State.modCh_ln (c : Chamber) (f : Csq → Csq) (m : Line) : (s.modCh c f).ln m = s.ln m := rfl
@[simp] theorem State.modCh_pollDyn (c : Chamber) (f : Csq → Csq) (x : EntryIx) : (s.modCh c f).pollDyn x = s.pollDyn x := rfl
@[simp] theorem State.modCh_inp (c : Chamber) (f : Csq → Csq) (j : Input) : (s.modCh c f).inp j = s.inp j := rfl

/-! ## modExec -/

@[simp] theorem State.modExec_now (c : Chamber) (f : StepCtx → StepCtx) : (s.modExec c f).now = s.now := rfl
@[simp] theorem State.modExec_cfg (c : Chamber) (f : StepCtx → StepCtx) : (s.modExec c f).cfg = s.cfg := rfl
@[simp] theorem State.modExec_fcu (c : Chamber) (f : StepCtx → StepCtx) : (s.modExec c f).fcu = s.fcu := rfl
@[simp] theorem State.modExec_gat (c : Chamber) (f : StepCtx → StepCtx) : (s.modExec c f).gat = s.gat := rfl
@[simp] theorem State.modExec_fla (c : Chamber) (f : StepCtx → StepCtx) : (s.modExec c f).fla = s.fla := rfl
@[simp] theorem State.modExec_ilc (c : Chamber) (f : StepCtx → StepCtx) : (s.modExec c f).ilc = s.ilc := rfl
@[simp] theorem State.modExec_iiu (c : Chamber) (f : StepCtx → StepCtx) : (s.modExec c f).iiu = s.iiu := rfl
@[simp] theorem State.modExec_svl (c : Chamber) (f : StepCtx → StepCtx) : (s.modExec c f).svl = s.svl := rfl
@[simp] theorem State.modExec_pending (c : Chamber) (f : StepCtx → StepCtx) : (s.modExec c f).pending = s.pending := rfl

@[simp] theorem State.modExec_chan (c : Chamber) (f : StepCtx → StepCtx) (d : Chamber) (j : Channel) : (s.modExec c f).chan d j = s.chan d j := rfl
@[simp] theorem State.modExec_ln (c : Chamber) (f : StepCtx → StepCtx) (m : Line) : (s.modExec c f).ln m = s.ln m := rfl
@[simp] theorem State.modExec_pollDyn (c : Chamber) (f : StepCtx → StepCtx) (x : EntryIx) : (s.modExec c f).pollDyn x = s.pollDyn x := rfl
@[simp] theorem State.modExec_inp (c : Chamber) (f : StepCtx → StepCtx) (j : Input) : (s.modExec c f).inp j = s.inp j := rfl

/-! ## modChan -/

@[simp] theorem State.modChan_now (c : Chamber) (k : Channel) (f : ChanCtx → ChanCtx) : (s.modChan c k f).now = s.now := rfl
@[simp] theorem State.modChan_cfg (c : Chamber) (k : Channel) (f : ChanCtx → ChanCtx) : (s.modChan c k f).cfg = s.cfg := rfl
@[simp] theorem State.modChan_csq (c : Chamber) (k : Channel) (f : ChanCtx → ChanCtx) : (s.modChan c k f).csq = s.csq := rfl
@[simp] theorem State.modChan_gat (c : Chamber) (k : Channel) (f : ChanCtx → ChanCtx) : (s.modChan c k f).gat = s.gat := rfl
@[simp] theorem State.modChan_fla (c : Chamber) (k : Channel) (f : ChanCtx → ChanCtx) : (s.modChan c k f).fla = s.fla := rfl
@[simp] theorem State.modChan_ilc (c : Chamber) (k : Channel) (f : ChanCtx → ChanCtx) : (s.modChan c k f).ilc = s.ilc := rfl
@[simp] theorem State.modChan_iiu (c : Chamber) (k : Channel) (f : ChanCtx → ChanCtx) : (s.modChan c k f).iiu = s.iiu := rfl
@[simp] theorem State.modChan_svl (c : Chamber) (k : Channel) (f : ChanCtx → ChanCtx) : (s.modChan c k f).svl = s.svl := rfl
@[simp] theorem State.modChan_pending (c : Chamber) (k : Channel) (f : ChanCtx → ChanCtx) : (s.modChan c k f).pending = s.pending := rfl

@[simp] theorem State.modChan_ch (c : Chamber) (k : Channel) (f : ChanCtx → ChanCtx) (d : Chamber) : (s.modChan c k f).ch d = s.ch d := rfl
@[simp] theorem State.modChan_ln (c : Chamber) (k : Channel) (f : ChanCtx → ChanCtx) (m : Line) : (s.modChan c k f).ln m = s.ln m := rfl
@[simp] theorem State.modChan_pollDyn (c : Chamber) (k : Channel) (f : ChanCtx → ChanCtx) (x : EntryIx) : (s.modChan c k f).pollDyn x = s.pollDyn x := rfl
@[simp] theorem State.modChan_inp (c : Chamber) (k : Channel) (f : ChanCtx → ChanCtx) (j : Input) : (s.modChan c k f).inp j = s.inp j := rfl

/-! ## modGat -/

@[simp] theorem State.modGat_now (f : Gat → Gat) : (s.modGat f).now = s.now := rfl
@[simp] theorem State.modGat_cfg (f : Gat → Gat) : (s.modGat f).cfg = s.cfg := rfl
@[simp] theorem State.modGat_csq (f : Gat → Gat) : (s.modGat f).csq = s.csq := rfl
@[simp] theorem State.modGat_fcu (f : Gat → Gat) : (s.modGat f).fcu = s.fcu := rfl
@[simp] theorem State.modGat_fla (f : Gat → Gat) : (s.modGat f).fla = s.fla := rfl
@[simp] theorem State.modGat_ilc (f : Gat → Gat) : (s.modGat f).ilc = s.ilc := rfl
@[simp] theorem State.modGat_iiu (f : Gat → Gat) : (s.modGat f).iiu = s.iiu := rfl
@[simp] theorem State.modGat_svl (f : Gat → Gat) : (s.modGat f).svl = s.svl := rfl
@[simp] theorem State.modGat_pending (f : Gat → Gat) : (s.modGat f).pending = s.pending := rfl
@[simp] theorem State.modGat_gat (f : Gat → Gat) : (s.modGat f).gat = f s.gat := rfl

@[simp] theorem State.modGat_ch (f : Gat → Gat) (d : Chamber) : (s.modGat f).ch d = s.ch d := rfl
@[simp] theorem State.modGat_chan (f : Gat → Gat) (d : Chamber) (j : Channel) : (s.modGat f).chan d j = s.chan d j := rfl
@[simp] theorem State.modGat_pollDyn (f : Gat → Gat) (x : EntryIx) : (s.modGat f).pollDyn x = s.pollDyn x := rfl
@[simp] theorem State.modGat_inp (f : Gat → Gat) (j : Input) : (s.modGat f).inp j = s.inp j := rfl

/-! ## modLine -/

@[simp] theorem State.modLine_now (l : Line) (f : LineDyn → LineDyn) : (s.modLine l f).now = s.now := rfl
@[simp] theorem State.modLine_cfg (l : Line) (f : LineDyn → LineDyn) : (s.modLine l f).cfg = s.cfg := rfl
@[simp] theorem State.modLine_csq (l : Line) (f : LineDyn → LineDyn) : (s.modLine l f).csq = s.csq := rfl
@[simp] theorem State.modLine_fcu (l : Line) (f : LineDyn → LineDyn) : (s.modLine l f).fcu = s.fcu := rfl
@[simp] theorem State.modLine_fla (l : Line) (f : LineDyn → LineDyn) : (s.modLine l f).fla = s.fla := rfl
@[simp] theorem State.modLine_ilc (l : Line) (f : LineDyn → LineDyn) : (s.modLine l f).ilc = s.ilc := rfl
@[simp] theorem State.modLine_iiu (l : Line) (f : LineDyn → LineDyn) : (s.modLine l f).iiu = s.iiu := rfl
@[simp] theorem State.modLine_svl (l : Line) (f : LineDyn → LineDyn) : (s.modLine l f).svl = s.svl := rfl
@[simp] theorem State.modLine_pending (l : Line) (f : LineDyn → LineDyn) : (s.modLine l f).pending = s.pending := rfl

@[simp] theorem State.modLine_ch (l : Line) (f : LineDyn → LineDyn) (d : Chamber) : (s.modLine l f).ch d = s.ch d := rfl
@[simp] theorem State.modLine_chan (l : Line) (f : LineDyn → LineDyn) (d : Chamber) (j : Channel) : (s.modLine l f).chan d j = s.chan d j := rfl
@[simp] theorem State.modLine_pollDyn (l : Line) (f : LineDyn → LineDyn) (x : EntryIx) : (s.modLine l f).pollDyn x = s.pollDyn x := rfl
@[simp] theorem State.modLine_inp (l : Line) (f : LineDyn → LineDyn) (j : Input) : (s.modLine l f).inp j = s.inp j := rfl

/-! ## modFla -/

@[simp] theorem State.modFla_now (f : Fla → Fla) : (s.modFla f).now = s.now := rfl
@[simp] theorem State.modFla_cfg (f : Fla → Fla) : (s.modFla f).cfg = s.cfg := rfl
@[simp] theorem State.modFla_csq (f : Fla → Fla) : (s.modFla f).csq = s.csq := rfl
@[simp] theorem State.modFla_fcu (f : Fla → Fla) : (s.modFla f).fcu = s.fcu := rfl
@[simp] theorem State.modFla_gat (f : Fla → Fla) : (s.modFla f).gat = s.gat := rfl
@[simp] theorem State.modFla_ilc (f : Fla → Fla) : (s.modFla f).ilc = s.ilc := rfl
@[simp] theorem State.modFla_iiu (f : Fla → Fla) : (s.modFla f).iiu = s.iiu := rfl
@[simp] theorem State.modFla_svl (f : Fla → Fla) : (s.modFla f).svl = s.svl := rfl
@[simp] theorem State.modFla_pending (f : Fla → Fla) : (s.modFla f).pending = s.pending := rfl
@[simp] theorem State.modFla_fla (f : Fla → Fla) : (s.modFla f).fla = f s.fla := rfl

@[simp] theorem State.modFla_ch (f : Fla → Fla) (d : Chamber) : (s.modFla f).ch d = s.ch d := rfl
@[simp] theorem State.modFla_chan (f : Fla → Fla) (d : Chamber) (j : Channel) : (s.modFla f).chan d j = s.chan d j := rfl
@[simp] theorem State.modFla_ln (f : Fla → Fla) (m : Line) : (s.modFla f).ln m = s.ln m := rfl
@[simp] theorem State.modFla_pollDyn (f : Fla → Fla) (x : EntryIx) : (s.modFla f).pollDyn x = s.pollDyn x := rfl
@[simp] theorem State.modFla_inp (f : Fla → Fla) (j : Input) : (s.modFla f).inp j = s.inp j := rfl

/-! ## modIlc -/

@[simp] theorem State.modIlc_now (f : Ilc → Ilc) : (s.modIlc f).now = s.now := rfl
@[simp] theorem State.modIlc_cfg (f : Ilc → Ilc) : (s.modIlc f).cfg = s.cfg := rfl
@[simp] theorem State.modIlc_csq (f : Ilc → Ilc) : (s.modIlc f).csq = s.csq := rfl
@[simp] theorem State.modIlc_fcu (f : Ilc → Ilc) : (s.modIlc f).fcu = s.fcu := rfl
@[simp] theorem State.modIlc_gat (f : Ilc → Ilc) : (s.modIlc f).gat = s.gat := rfl
@[simp] theorem State.modIlc_fla (f : Ilc → Ilc) : (s.modIlc f).fla = s.fla := rfl
@[simp] theorem State.modIlc_iiu (f : Ilc → Ilc) : (s.modIlc f).iiu = s.iiu := rfl
@[simp] theorem State.modIlc_svl (f : Ilc → Ilc) : (s.modIlc f).svl = s.svl := rfl
@[simp] theorem State.modIlc_pending (f : Ilc → Ilc) : (s.modIlc f).pending = s.pending := rfl
@[simp] theorem State.modIlc_ilc (f : Ilc → Ilc) : (s.modIlc f).ilc = f s.ilc := rfl

@[simp] theorem State.modIlc_ch (f : Ilc → Ilc) (d : Chamber) : (s.modIlc f).ch d = s.ch d := rfl
@[simp] theorem State.modIlc_chan (f : Ilc → Ilc) (d : Chamber) (j : Channel) : (s.modIlc f).chan d j = s.chan d j := rfl
@[simp] theorem State.modIlc_ln (f : Ilc → Ilc) (m : Line) : (s.modIlc f).ln m = s.ln m := rfl
@[simp] theorem State.modIlc_inp (f : Ilc → Ilc) (j : Input) : (s.modIlc f).inp j = s.inp j := rfl

/-! ## modPoll -/

@[simp] theorem State.modPoll_now (e : EntryIx) (f : PollDyn → PollDyn) : (s.modPoll e f).now = s.now := rfl
@[simp] theorem State.modPoll_cfg (e : EntryIx) (f : PollDyn → PollDyn) : (s.modPoll e f).cfg = s.cfg := rfl
@[simp] theorem State.modPoll_csq (e : EntryIx) (f : PollDyn → PollDyn) : (s.modPoll e f).csq = s.csq := rfl
@[simp] theorem State.modPoll_fcu (e : EntryIx) (f : PollDyn → PollDyn) : (s.modPoll e f).fcu = s.fcu := rfl
@[simp] theorem State.modPoll_gat (e : EntryIx) (f : PollDyn → PollDyn) : (s.modPoll e f).gat = s.gat := rfl
@[simp] theorem State.modPoll_fla (e : EntryIx) (f : PollDyn → PollDyn) : (s.modPoll e f).fla = s.fla := rfl
@[simp] theorem State.modPoll_iiu (e : EntryIx) (f : PollDyn → PollDyn) : (s.modPoll e f).iiu = s.iiu := rfl
@[simp] theorem State.modPoll_svl (e : EntryIx) (f : PollDyn → PollDyn) : (s.modPoll e f).svl = s.svl := rfl
@[simp] theorem State.modPoll_pending (e : EntryIx) (f : PollDyn → PollDyn) : (s.modPoll e f).pending = s.pending := rfl

@[simp] theorem State.modPoll_ch (e : EntryIx) (f : PollDyn → PollDyn) (d : Chamber) : (s.modPoll e f).ch d = s.ch d := rfl
@[simp] theorem State.modPoll_chan (e : EntryIx) (f : PollDyn → PollDyn) (d : Chamber) (j : Channel) : (s.modPoll e f).chan d j = s.chan d j := rfl
@[simp] theorem State.modPoll_ln (e : EntryIx) (f : PollDyn → PollDyn) (m : Line) : (s.modPoll e f).ln m = s.ln m := rfl
@[simp] theorem State.modPoll_inp (e : EntryIx) (f : PollDyn → PollDyn) (j : Input) : (s.modPoll e f).inp j = s.inp j := rfl

/-! ## modIiu -/

@[simp] theorem State.modIiu_now (f : Iiu → Iiu) : (s.modIiu f).now = s.now := rfl
@[simp] theorem State.modIiu_cfg (f : Iiu → Iiu) : (s.modIiu f).cfg = s.cfg := rfl
@[simp] theorem State.modIiu_csq (f : Iiu → Iiu) : (s.modIiu f).csq = s.csq := rfl
@[simp] theorem State.modIiu_fcu (f : Iiu → Iiu) : (s.modIiu f).fcu = s.fcu := rfl
@[simp] theorem State.modIiu_gat (f : Iiu → Iiu) : (s.modIiu f).gat = s.gat := rfl
@[simp] theorem State.modIiu_fla (f : Iiu → Iiu) : (s.modIiu f).fla = s.fla := rfl
@[simp] theorem State.modIiu_ilc (f : Iiu → Iiu) : (s.modIiu f).ilc = s.ilc := rfl
@[simp] theorem State.modIiu_svl (f : Iiu → Iiu) : (s.modIiu f).svl = s.svl := rfl
@[simp] theorem State.modIiu_pending (f : Iiu → Iiu) : (s.modIiu f).pending = s.pending := rfl
@[simp] theorem State.modIiu_iiu (f : Iiu → Iiu) : (s.modIiu f).iiu = f s.iiu := rfl

@[simp] theorem State.modIiu_ch (f : Iiu → Iiu) (d : Chamber) : (s.modIiu f).ch d = s.ch d := rfl
@[simp] theorem State.modIiu_chan (f : Iiu → Iiu) (d : Chamber) (j : Channel) : (s.modIiu f).chan d j = s.chan d j := rfl
@[simp] theorem State.modIiu_ln (f : Iiu → Iiu) (m : Line) : (s.modIiu f).ln m = s.ln m := rfl
@[simp] theorem State.modIiu_pollDyn (f : Iiu → Iiu) (x : EntryIx) : (s.modIiu f).pollDyn x = s.pollDyn x := rfl

/-! ## modInp -/

@[simp] theorem State.modInp_now (i : Input) (f : InState → InState) : (s.modInp i f).now = s.now := rfl
@[simp] theorem State.modInp_cfg (i : Input) (f : InState → InState) : (s.modInp i f).cfg = s.cfg := rfl
@[simp] theorem State.modInp_csq (i : Input) (f : InState → InState) : (s.modInp i f).csq = s.csq := rfl
@[simp] theorem State.modInp_fcu (i : Input) (f : InState → InState) : (s.modInp i f).fcu = s.fcu := rfl
@[simp] theorem State.modInp_gat (i : Input) (f : InState → InState) : (s.modInp i f).gat = s.gat := rfl
@[simp] theorem State.modInp_fla (i : Input) (f : InState → InState) : (s.modInp i f).fla = s.fla := rfl
@[simp] theorem State.modInp_ilc (i : Input) (f : InState → InState) : (s.modInp i f).ilc = s.ilc := rfl
@[simp] theorem State.modInp_svl (i : Input) (f : InState → InState) : (s.modInp i f).svl = s.svl := rfl
@[simp] theorem State.modInp_pending (i : Input) (f : InState → InState) : (s.modInp i f).pending = s.pending := rfl

@[simp] theorem State.modInp_ch (i : Input) (f : InState → InState) (d : Chamber) : (s.modInp i f).ch d = s.ch d := rfl
@[simp] theorem State.modInp_chan (i : Input) (f : InState → InState) (d : Chamber) (j : Channel) : (s.modInp i f).chan d j = s.chan d j := rfl
@[simp] theorem State.modInp_ln (i : Input) (f : InState → InState) (m : Line) : (s.modInp i f).ln m = s.ln m := rfl
@[simp] theorem State.modInp_pollDyn (i : Input) (f : InState → InState) (x : EntryIx) : (s.modInp i f).pollDyn x = s.pollDyn x := rfl

/-! ## modSvl -/

@[simp] theorem State.modSvl_now (f : Svl → Svl) : (s.modSvl f).now = s.now := rfl
@[simp] theorem State.modSvl_cfg (f : Svl → Svl) : (s.modSvl f).cfg = s.cfg := rfl
@[simp] theorem State.modSvl_csq (f : Svl → Svl) : (s.modSvl f).csq = s.csq := rfl
@[simp] theorem State.modSvl_fcu (f : Svl → Svl) : (s.modSvl f).fcu = s.fcu := rfl
@[simp] theorem State.modSvl_gat (f : Svl → Svl) : (s.modSvl f).gat = s.gat := rfl
@[simp] theorem State.modSvl_fla (f : Svl → Svl) : (s.modSvl f).fla = s.fla := rfl
@[simp] theorem State.modSvl_ilc (f : Svl → Svl) : (s.modSvl f).ilc = s.ilc := rfl
@[simp] theorem State.modSvl_iiu (f : Svl → Svl) : (s.modSvl f).iiu = s.iiu := rfl
@[simp] theorem State.modSvl_pending (f : Svl → Svl) : (s.modSvl f).pending = s.pending := rfl
@[simp] theorem State.modSvl_svl (f : Svl → Svl) : (s.modSvl f).svl = f s.svl := rfl

@[simp] theorem State.modSvl_ch (f : Svl → Svl) (d : Chamber) : (s.modSvl f).ch d = s.ch d := rfl
@[simp] theorem State.modSvl_chan (f : Svl → Svl) (d : Chamber) (j : Channel) : (s.modSvl f).chan d j = s.chan d j := rfl
@[simp] theorem State.modSvl_ln (f : Svl → Svl) (m : Line) : (s.modSvl f).ln m = s.ln m := rfl
@[simp] theorem State.modSvl_pollDyn (f : Svl → Svl) (x : EntryIx) : (s.modSvl f).pollDyn x = s.pollDyn x := rfl
@[simp] theorem State.modSvl_inp (f : Svl → Svl) (j : Input) : (s.modSvl f).inp j = s.inp j := rfl

/-! ## modCfg -/

@[simp] theorem State.modCfg_now (f : Cfg → Cfg) : (s.modCfg f).now = s.now := rfl
@[simp] theorem State.modCfg_csq (f : Cfg → Cfg) : (s.modCfg f).csq = s.csq := rfl
@[simp] theorem State.modCfg_fcu (f : Cfg → Cfg) : (s.modCfg f).fcu = s.fcu := rfl
@[simp] theorem State.modCfg_gat (f : Cfg → Cfg) : (s.modCfg f).gat = s.gat := rfl
@[simp] theorem State.modCfg_fla (f : Cfg → Cfg) : (s.modCfg f).fla = s.fla := rfl
@[simp] theorem State.modCfg_ilc (f : Cfg → Cfg) : (s.modCfg f).ilc = s.ilc := rfl
@[simp] theorem State.modCfg_iiu (f : Cfg → Cfg) : (s.modCfg f).iiu = s.iiu := rfl
@[simp] theorem State.modCfg_svl (f : Cfg → Cfg) : (s.modCfg f).svl = s.svl := rfl
@[simp] theorem State.modCfg_pending (f : Cfg → Cfg) : (s.modCfg f).pending = s.pending := rfl
@[simp] theorem State.modCfg_cfg (f : Cfg → Cfg) : (s.modCfg f).cfg = f s.cfg := rfl

@[simp] theorem State.modCfg_ch (f : Cfg → Cfg) (d : Chamber) : (s.modCfg f).ch d = s.ch d := rfl
@[simp] theorem State.modCfg_chan (f : Cfg → Cfg) (d : Chamber) (j : Channel) : (s.modCfg f).chan d j = s.chan d j := rfl
@[simp] theorem State.modCfg_ln (f : Cfg → Cfg) (m : Line) : (s.modCfg f).ln m = s.ln m := rfl
@[simp] theorem State.modCfg_pollDyn (f : Cfg → Cfg) (x : EntryIx) : (s.modCfg f).pollDyn x = s.pollDyn x := rfl
@[simp] theorem State.modCfg_inp (f : Cfg → Cfg) (j : Input) : (s.modCfg f).inp j = s.inp j := rfl

/-! ## Readers at their own updates -/

@[simp] theorem State.modCh_ch (c : Chamber) (f : Csq → Csq) (d : Chamber) :
    (s.modCh c f).ch d = if c = d then f (s.ch c) else s.ch d := by
  simp [State.modCh, State.ch]

theorem State.modCh_ch_same (c : Chamber) (f : Csq → Csq) : (s.modCh c f).ch c = f (s.ch c) := by simp

theorem State.modCh_ch_ne {c d : Chamber} (f : Csq → Csq) (h : c ≠ d) : (s.modCh c f).ch d = s.ch d := by simp [h]

@[simp] theorem State.modExec_ch (c : Chamber) (f : StepCtx → StepCtx) (d : Chamber) :
    (s.modExec c f).ch d = if c = d then { s.ch c with exec := (s.ch c).exec.map f } else s.ch d := by
  simp [State.modExec]

@[simp] theorem State.modChan_chan (c : Chamber) (k : Channel) (f : ChanCtx → ChanCtx) (d : Chamber) (j : Channel) :
    (s.modChan c k f).chan d j = if c = d ∧ k = j then f (s.chan c k) else s.chan d j := by
  by_cases hc : c = d
  · subst hc
    by_cases hk : k = j <;> simp [State.modChan, State.chan, hk]
  · simp [State.modChan, State.chan, hc]

@[simp] theorem State.modLine_ln (l : Line) (f : LineDyn → LineDyn) (m : Line) :
    (s.modLine l f).ln m = if l = m then f (s.ln l) else s.ln m := by
  simp [State.modLine, State.ln, State.modGat]

@[simp] theorem State.modLine_queue (l : Line) (f : LineDyn → LineDyn) : (s.modLine l f).gat.queue = s.gat.queue := rfl
@[simp] theorem State.modLine_serviceDue (l : Line) (f : LineDyn → LineDyn) :
    (s.modLine l f).gat.serviceDue = s.gat.serviceDue := rfl
@[simp] theorem State.modLine_toFla (l : Line) (f : LineDyn → LineDyn) : (s.modLine l f).gat.toFla = s.gat.toFla := rfl

@[simp] theorem State.modPoll_pollDyn (e : EntryIx) (f : PollDyn → PollDyn) (x : EntryIx) :
    (s.modPoll e f).pollDyn x = if e = x then f (s.pollDyn e) else s.pollDyn x := by
  unfold State.modPoll State.pollDyn State.modIlc
  rw [Table.look_put]

@[simp] theorem State.modPoll_urgent (e : EntryIx) (f : PollDyn → PollDyn) : (s.modPoll e f).ilc.urgent = s.ilc.urgent := rfl
@[simp] theorem State.modPoll_frameRest (e : EntryIx) (f : PollDyn → PollDyn) :
    (s.modPoll e f).ilc.frameRest = s.ilc.frameRest := rfl
@[simp] theorem State.modPoll_inFlight (e : EntryIx) (f : PollDyn → PollDyn) :
    (s.modPoll e f).ilc.inFlight = s.ilc.inFlight := rfl
@[simp] theorem State.modPoll_frameAt (e : EntryIx) (f : PollDyn → PollDyn) :
    (s.modPoll e f).ilc.frameAt = s.ilc.frameAt := rfl

/-- Two inputs with the same place are the same input. -/
theorem inputIx_injective {i j : Input} (h : inputIx i = inputIx j) : i = j := by
  have hv := congrArg Fin.val h
  cases i <;> cases j <;> simp only [inputIx] at hv <;> first
    | rfl
    | (exfalso; revert hv; simp; done)
    | (exfalso; revert hv; simp; omega)
    | (congr 1; apply Fin.ext; omega)

@[simp] theorem State.modInp_inp (i : Input) (f : InState → InState) (j : Input) :
    (s.modInp i f).inp j = if i = j then f (s.inp i) else s.inp j := by
  by_cases h : i = j
  · subst h
    simp [State.modInp, State.inp, State.modIiu]
  · simp [State.modInp, State.inp, State.modIiu, h, show inputIx i ≠ inputIx j from fun e => h (inputIx_injective e)]

@[simp] theorem State.modInp_forcing (i : Input) (f : InState → InState) : (s.modInp i f).iiu.forcing = s.iiu.forcing := rfl
@[simp] theorem State.modInp_notices (i : Input) (f : InState → InState) : (s.modInp i f).iiu.notices = s.iiu.notices := rfl
@[simp] theorem State.modInp_arcRaw (i : Input) (f : InState → InState) : (s.modInp i f).iiu.arcRaw = s.iiu.arcRaw := rfl
@[simp] theorem State.modInp_merge (i : Input) (f : InState → InState) : (s.modInp i f).iiu.merge = s.iiu.merge := rfl

end Sys2Proof.Machine
end

