-- ==== Sys2Proof/Laws/Keeps.lean ====
section
/-! SUPPORT. What every shared operation keeps, said once: Keeps s t. An operation that no command gives a new configuration,
clock, queue of commands or input level leaves those as they are, leaves the links' receive side alone, keeps the valve law of
each chamber, the bounds of the queues, the remainders' bound, and never lowers a total. -/

namespace Sys2Proof.Machine

/-- What holds between the states before and after any shared operation. -/
structure Holds (s t : State) : Prop where
  now : t.now = s.now
  cfg : t.cfg = s.cfg
  pending : t.pending = s.pending
  svl : t.svl = { s.svl with events := t.svl.events, eventsLost := t.svl.eventsLost }
  law : ∀ c, (s.ch c).lawful = true → (t.ch c).lawful = true
  events : s.svl.events.length ≤ Config.eventQueueSize → t.svl.events.length ≤ Config.eventQueueSize
  reports : ∀ c, (s.ch c).reports.length ≤ Config.reportQueueSize → (t.ch c).reports.length ≤ Config.reportQueueSize
  urgent : s.ilc.urgent.length ≤ Config.urgentQueueSize → t.ilc.urgent.length ≤ Config.urgentQueueSize
  total : ∀ l, (s.ln l).total ≤ Config.totalMax → (s.ln l).total ≤ (t.ln l).total ∧ (t.ln l).total ≤ Config.totalMax
  rem : ∀ l, (s.ln l).rem < Config.integrationDivisor → (t.ln l).rem < Config.integrationDivisor

/-- What holds of an operation that leaves the inputs alone as well. -/
structure Keeps (s t : State) : Prop extends Holds s t where
  iiu : t.iiu = s.iiu

theorem Holds.refl (s : State) : Holds s s :=
  ⟨rfl, rfl, rfl, rfl, fun _ h => h, id, fun _ h => h, id, fun _ h => ⟨Nat.le_refl _, h⟩, fun _ h => h⟩

theorem Keeps.refl (s : State) : Keeps s s := ⟨Holds.refl s, rfl⟩

theorem Holds.trans {s t u : State} (h : Holds s t) (g : Holds t u) : Holds s u where
  now := g.now.trans h.now
  cfg := g.cfg.trans h.cfg
  pending := g.pending.trans h.pending
  svl := by rw [g.svl, h.svl]
  law c l := g.law c (h.law c l)
  events l := g.events (h.events l)
  reports c l := g.reports c (h.reports c l)
  urgent l := g.urgent (h.urgent l)
  total l m := ⟨Nat.le_trans (h.total l m).1 (g.total l (h.total l m).2).1, (g.total l (h.total l m).2).2⟩
  rem l m := g.rem l (h.rem l m)

theorem Keeps.trans {s t u : State} (h : Keeps s t) (g : Keeps t u) : Keeps s u :=
  ⟨h.toHolds.trans g.toHolds, g.iiu.trans h.iiu⟩

/-- A fold of operations that each keep. -/
theorem keeps_foldl {α : Type} {f : State → α → State} {s t : State} (xs : List α)
    (hf : ∀ u a, Keeps s u → Keeps s (f u a)) (h : Keeps s t) : Keeps s (xs.foldl f t) := by
  induction xs generalizing t with
  | nil => exact h
  | cons a rest ih => exact ih (hf t a h)

section
variable {s t : State} (h : Keeps s t)
include h

/-! ## Updates -/

theorem keeps_modCh {c : Chamber} {f : Csq → Csq} (hl : ∀ q : Csq, q.lawful = true → (f q).lawful = true)
    (hr : ∀ q : Csq, q.reports.length ≤ Config.reportQueueSize → (f q).reports.length ≤ Config.reportQueueSize) :
    Keeps s (t.modCh c f) := by
  refine h.trans ⟨⟨rfl, rfl, rfl, rfl, fun d l => ?_, id, fun d l => ?_, id, fun _ m => ⟨Nat.le_refl _, m⟩, fun _ m => m⟩, rfl⟩
  · by_cases e : c = d
    · subst e; simpa using hl _ l
    · simpa [e] using l
  · by_cases e : c = d
    · subst e; simpa using hr _ l
    · simpa [e] using l

theorem keeps_modCh' {c : Chamber} {f : Csq → Csq} (hl : ∀ q : Csq, (f q).lawful = q.lawful)
    (hr : ∀ q : Csq, (f q).reports = q.reports) : Keeps s (t.modCh c f) :=
  keeps_modCh h (fun q l => (hl q).trans l) (fun q l => by rw [hr]; exact l)

theorem keeps_modExec {c : Chamber} {f : StepCtx → StepCtx} : Keeps s (t.modExec c f) :=
  keeps_modCh' h (fun _ => rfl) (fun _ => rfl)

theorem keeps_modChan {c : Chamber} {k : Channel} {f : ChanCtx → ChanCtx} : Keeps s (t.modChan c k f) :=
  h.trans ⟨⟨rfl, rfl, rfl, rfl, fun _ l => l, id, fun _ l => l, id, fun _ m => ⟨Nat.le_refl _, m⟩, fun _ m => m⟩, rfl⟩

theorem keeps_modGat {f : Gat → Gat} (hf : ∀ g : Gat, (f g).lines = g.lines) : Keeps s (t.modGat f) :=
  h.trans ⟨⟨rfl, rfl, rfl, rfl, fun _ l => l, id, fun _ l => l, id,
    fun l m => by
      have e : (t.modGat f).ln l = t.ln l := by simp [State.ln, hf]
      rw [e]; exact ⟨Nat.le_refl _, m⟩,
    fun l m => by
      have e : (t.modGat f).ln l = t.ln l := by simp [State.ln, hf]
      rw [e]; exact m⟩, rfl⟩

theorem keeps_modLine {l : Line} {f : LineDyn → LineDyn}
    (ht : ∀ x : LineDyn, x.total ≤ Config.totalMax → x.total ≤ (f x).total ∧ (f x).total ≤ Config.totalMax)
    (hr : ∀ x : LineDyn, x.rem < Config.integrationDivisor → (f x).rem < Config.integrationDivisor) :
    Keeps s (t.modLine l f) := by
  refine h.trans ⟨⟨rfl, rfl, rfl, rfl, fun _ l => l, id, fun _ l => l, id, fun m e => ?_, fun m e => ?_⟩, rfl⟩
  · by_cases d : l = m
    · subst d; simpa using ht _ e
    · simpa [d] using e
  · by_cases d : l = m
    · subst d; simpa using hr _ e
    · simpa [d] using e

theorem keeps_modFla {f : Fla → Fla} : Keeps s (t.modFla f) :=
  h.trans ⟨⟨rfl, rfl, rfl, rfl, fun _ l => l, id, fun _ l => l, id, fun _ m => ⟨Nat.le_refl _, m⟩, fun _ m => m⟩, rfl⟩

theorem keeps_modIlc {f : Ilc → Ilc}
    (hf : ∀ i : Ilc, i.urgent.length ≤ Config.urgentQueueSize → (f i).urgent.length ≤ Config.urgentQueueSize) :
    Keeps s (t.modIlc f) :=
  h.trans ⟨⟨rfl, rfl, rfl, rfl, fun _ l => l, id, fun _ l => l, hf _, fun _ m => ⟨Nat.le_refl _, m⟩, fun _ m => m⟩, rfl⟩

theorem keeps_modPoll {e : EntryIx} {f : PollDyn → PollDyn} : Keeps s (t.modPoll e f) := keeps_modIlc h (fun _ l => l)

/-! ## Events (R177) -/

theorem keeps_post (e : Event) : Keeps s (post e t) := by
  refine h.trans ?_
  unfold post
  split
  · exact Keeps.refl t
  · split
    · exact ⟨⟨rfl, rfl, rfl, rfl, fun _ l => l, id, fun _ l => l, id, fun _ m => ⟨Nat.le_refl _, m⟩, fun _ m => m⟩, rfl⟩
    · rename_i room
      refine ⟨⟨rfl, rfl, rfl, rfl, fun _ l => l, fun _ => ?_, fun _ l => l, id, fun _ m => ⟨Nat.le_refl _, m⟩, fun _ m => m⟩, rfl⟩
      simp only [State.modSvl_svl, List.length_append, List.length_singleton]
      omega

theorem keeps_postChstate (c : Chamber) : Keeps s (postChstate c t) := keeps_post h _
theorem keeps_postForeline : Keeps s (postForeline t) := keeps_post h _

end

/-! ## Valves (R20) -/

theorem Valve.commandClose_engaged {now travel : Nat} {v : Valve} :
    (v.commandClose now travel).engaged = true → v.engaged = true := by
  rcases v with ⟨_ | _, _ | _ | _ | _⟩ <;>
    simp [Valve.commandClose, Valve.engaged, Valve.countsOpen, ValvePos.drop]

theorem Valve.expire_engaged {v : Valve} : v.expire.engaged = true → v.engaged = true := by
  rcases v with ⟨_ | _, _ | _ | _ | _⟩ <;> simp [Valve.expire, Valve.engaged, Valve.countsOpen]

theorem Valve.force_engaged {now travel : Nat} {v : Valve} : (v.force now travel).engaged = true → v.engaged = true := by
  rcases v with ⟨_ | _, _ | _ | _ | _⟩ <;> simp [Valve.force, Valve.engaged, Valve.countsOpen, ValvePos.drop]

theorem Valve.unforce_engaged {now travel : Nat} {v : Valve} : (v.unforce now travel).engaged = true → v.engaged = true := by
  rcases v with ⟨_ | _, _ | _ | _ | _⟩ <;> simp [Valve.unforce, Valve.commandOpen, Valve.engaged, Valve.countsOpen]

theorem Valve.isClosed_iff {v : Valve} : v.isClosed = true ↔ v.engaged = false := by
  rcases v with ⟨_ | _, _ | _ | _ | _⟩ <;> simp [Valve.isClosed, Valve.engaged, Valve.countsOpen]

/-- The law asks only which valves are engaged: fewer engaged valves obey it too. -/
theorem Csq.lawful_mono {p q : Csq} (hg : q.gate.engaged = true → p.gate.engaged = true)
    (hv : q.vent.engaged = true → p.vent.engaged = true)
    (hs : q.roughSoft.engaged = true → p.roughSoft.engaged = true)
    (hf : q.roughFast.engaged = true → p.roughFast.engaged = true) (h : p.lawful = true) : q.lawful = true := by
  unfold Csq.lawful Csq.roughEngaged at *
  cases hq : q.gate.engaged <;> cases hq' : q.vent.engaged <;> cases hq2 : q.roughSoft.engaged <;>
    cases hq3 : q.roughFast.engaged <;> simp_all

theorem Csq.lawful_setValve {q : Csq} {v : ChamberValve} {x : Valve} (hx : x.engaged = true → (q.valve v).engaged = true)
    (h : q.lawful = true) : (q.setValve v x).lawful = true := by
  cases v <;> exact Csq.lawful_mono (by first | exact hx | exact id) (by first | exact hx | exact id)
    (by first | exact hx | exact id) (by first | exact hx | exact id) h

theorem Csq.setValve_reports (q : Csq) (v : ChamberValve) (x : Valve) : (q.setValve v x).reports = q.reports := by
  cases v <;> rfl

section
variable {s t : State} (h : Keeps s t)
include h

theorem keeps_closeValve (c : Chamber) (v : ChamberValve) : Keeps s (closeValve c v t) :=
  keeps_modCh h (fun _ l => Csq.lawful_setValve Valve.commandClose_engaged l)
    (fun q l => by rw [Csq.setValve_reports]; exact l)

theorem keeps_closeRough (c : Chamber) : Keeps s (closeRough c t) := keeps_closeValve (keeps_closeValve h c _) c _

/-- An open command keeps the law where its group's conditions hold (R20). -/
theorem keeps_driveOpen (c : Chamber) (v : ChamberValve)
    (hv : ∀ x : Valve, (t.ch c).lawful = true → ((t.ch c).setValve v x).lawful = true) : Keeps s (driveOpen c v t) := by
  refine h.trans ⟨⟨rfl, rfl, rfl, rfl, fun d l => ?_, id, fun d l => ?_, id, fun _ m => ⟨Nat.le_refl _, m⟩, fun _ m => m⟩, rfl⟩
  · by_cases e : c = d
    · subst e; simpa [driveOpen] using hv _ l
    · simpa [driveOpen, e] using l
  · by_cases e : c = d
    · subst e; simpa [driveOpen, Csq.setValve_reports] using l
    · simpa [driveOpen, e] using l

theorem keeps_openGate (c : Chamber) : Keeps s (openGate c t) := by
  unfold openGate
  split
  · rename_i hc
    refine keeps_driveOpen h c _ (fun x l => ?_)
    simp only [Csq.mayOpenGate, Csq.roughClosed, Bool.and_eq_true, Valve.isClosed_iff] at hc
    simp [Csq.lawful, Csq.roughEngaged, Csq.setValve, hc]
  · exact h

theorem keeps_openVent (c : Chamber) : Keeps s (openVent c t) := by
  unfold openVent
  split
  · rename_i hc
    refine keeps_driveOpen h c _ (fun x l => ?_)
    simp only [Csq.mayOpenVent, Csq.roughClosed, Bool.and_eq_true, Valve.isClosed_iff] at hc
    simp [Csq.lawful, Csq.roughEngaged, Csq.setValve, hc]
  · exact h

end

end Sys2Proof.Machine
end

