-- ==== Sys2Proof/Laws/KeepsOps.lean ====
section
/-! SUPPORT. Keeps for the shared operations, one lemma each, in the order in which they are defined: an operation after
which a state keeps what σ keeps. Laws/Keeps.lean says what that is. -/

namespace Sys2Proof.Machine

variable {σ τ : State} (keep : Keeps σ τ)
include keep

/-! ## Ops.lean -/

theorem keeps_startRoughTimer (c : Chamber) : Keeps σ (startRoughTimer c τ) := by
  unfold startRoughTimer
  repeat' first | with_reducible assumption | with_reducible apply keeps_modExec

theorem keeps_stopRoughTimer (c : Chamber) : Keeps σ (stopRoughTimer c τ) := by
  unfold stopRoughTimer
  repeat' first | with_reducible assumption | with_reducible apply keeps_modExec

theorem keeps_openRough (c : Chamber) : Keeps σ (openRough c τ) := by
  unfold openRough
  split
  · rename_i hc
    simp only [mayOpenRough, Bool.and_eq_true, Valve.isClosed_iff] at hc
    have one : Keeps σ (driveOpen c .roughSoft τ) := by
      refine keeps_driveOpen keep c _ (fun x l => ?_)
      simp [Csq.lawful, Csq.setValve, hc]
    have two : Keeps σ (driveOpen c .roughFast (driveOpen c .roughSoft τ)) := by
      refine keeps_driveOpen one c _ (fun x l => ?_)
      simp [driveOpen, Csq.lawful, Csq.setValve, hc]
    dsimp only
    repeat' first | with_reducible assumption | with_reducible apply keeps_startRoughTimer | split
  · exact keep

theorem keeps_enterPhase (c : Chamber) (p : Phase) : Keeps σ (enterPhase c p τ) := by
  unfold enterPhase
  repeat' first | with_reducible assumption | with_reducible apply keeps_postChstate | with_reducible apply keeps_modCh' | (intro _; rfl)

theorem keeps_startMain (c : Chamber) : Keeps σ (startMain c τ) := by
  unfold startMain
  repeat' first | with_reducible assumption | with_reducible apply keeps_modExec

theorem keeps_urgentMark (c : Chamber) (r : Role) : Keeps σ (urgentMark c r τ) := by
  unfold urgentMark
  repeat' first | with_reducible assumption | split
  rename_i room
  refine keep.trans ⟨⟨rfl, rfl, rfl, rfl, fun _ l => l, id, fun _ l => l, fun _ => ?_, fun _ m => ⟨Nat.le_refl _, m⟩, fun _ m => m⟩, rfl⟩
  simp only [State.modIlc_ilc, List.length_append, List.length_singleton]
  omega

theorem keeps_addResidue (c : Chamber) (g : Option GasClass) : Keeps σ (addResidue c g τ) := by
  unfold addResidue
  repeat' first | with_reducible assumption | with_reducible apply keeps_modCh' | (intro _; rfl) | split

theorem keeps_setTarget (c : Chamber) (k : Channel) (v : Nat) : Keeps σ (setTarget c k v τ) := by
  unfold setTarget
  dsimp only
  repeat' first | with_reducible assumption | with_reducible apply keeps_urgentMark | with_reducible apply keeps_addResidue | with_reducible apply keeps_modCh' | with_reducible apply keeps_modChan | split

theorem keeps_setTargets (c : Chamber) (want : Channel → Nat) : Keeps σ (setTargets c want τ) := by
  unfold setTargets
  repeat' first | with_reducible assumption | with_reducible apply keeps_setTarget | (with_reducible refine keeps_foldl _ (fun _ _ keep => ?_) ?_)

theorem keeps_zeroTargets (c : Chamber) : Keeps σ (zeroTargets c τ) := by
  unfold zeroTargets
  repeat' first | with_reducible assumption | with_reducible apply keeps_setTargets

theorem keeps_zeroCurrents (c : Chamber) : Keeps σ (zeroCurrents c τ) := by
  unfold zeroCurrents
  repeat' first | with_reducible assumption | with_reducible apply keeps_modCh' | with_reducible apply keeps_modChan | (with_reducible refine keeps_foldl _ (fun _ _ keep => ?_) ?_)

theorem keeps_clearDeviations (c : Chamber) : Keeps σ (clearDeviations c τ) := by
  unfold clearDeviations
  repeat' first | with_reducible assumption | with_reducible apply keeps_modCh' | with_reducible apply keeps_modChan | (with_reducible refine keeps_foldl _ (fun _ _ keep => ?_) ?_)

theorem keeps_setThrottle (c : Chamber) (t : Throttle) : Keeps σ (setThrottle c t τ) := by
  unfold setThrottle
  repeat' first | with_reducible assumption | with_reducible apply keeps_urgentMark | with_reducible apply keeps_modCh' | (intro _; rfl) | split

theorem keeps_setSource (c : Chamber) (w : Nat) : Keeps σ (setSource c w τ) := by
  unfold setSource
  repeat' first | with_reducible assumption | with_reducible apply keeps_urgentMark | with_reducible apply keeps_modCh' | (intro _; rfl) | split

theorem keeps_setBias (c : Chamber) (w : Nat) : Keeps σ (setBias c w τ) := by
  unfold setBias
  repeat' first | with_reducible assumption | with_reducible apply keeps_urgentMark | with_reducible apply keeps_modCh' | (intro _; rfl) | split

theorem keeps_stopRf (c : Chamber) : Keeps σ (stopRf c τ) := by
  unfold stopRf
  repeat' first | with_reducible assumption | with_reducible apply keeps_setSource | with_reducible apply keeps_setBias | with_reducible apply keeps_modCh' | (intro _; rfl)

theorem keeps_leaveQueue (c : Chamber) : Keeps σ (leaveQueue c τ) := by
  unfold leaveQueue
  repeat' first | with_reducible assumption | with_reducible apply keeps_modCh' | with_reducible apply keeps_modGat | (intro _; rfl)

theorem keeps_oweService : Keeps σ (oweService τ) := by
  unfold oweService
  repeat' first | with_reducible assumption | with_reducible apply keeps_modGat | (intro _; rfl)

theorem keeps_releaseHoldings (c : Chamber) : Keeps σ (releaseHoldings c τ) := by
  unfold releaseHoldings
  dsimp only
  repeat' first | with_reducible assumption | with_reducible apply keeps_leaveQueue | with_reducible apply keeps_oweService | with_reducible apply keeps_modCh' | (intro _; rfl) | split

theorem keeps_fileReport (c : Chamber) (r : Report) : Keeps σ (fileReport c r τ) := by
  unfold fileReport
  refine keeps_modCh keep (fun q l => ?_) (fun q l => ?_)
  · split <;> exact l
  · split
    · rename_i room
      simp only [List.length_append, List.length_singleton]
      omega
    · simp only [List.length_append, List.length_singleton, List.length_tail, Config.reportQueueSize] at *
      omega

theorem keeps_setLineState (l : Line) (st : LineState) (cause : LineCause) : Keeps σ (setLineState l st cause τ) := by
  refine keeps_post ?_ _
  exact keeps_modLine keep (fun _ m => ⟨Nat.le_refl _, m⟩) (fun _ m => m)

/-! ## Foreline.lean -/

theorem keeps_modPump (l : Line) (f : Valve → Valve) : Keeps σ (modPump l f τ) := by
  unfold modPump
  repeat' first | with_reducible assumption | with_reducible apply keeps_modFla

theorem keeps_closePump (l : Line) : Keeps σ (closePump l τ) := by
  unfold closePump
  repeat' first | with_reducible assumption | with_reducible apply keeps_modPump

theorem keeps_openPump (l : Line) : Keeps σ (openPump l τ) := by
  unfold openPump
  repeat' first | with_reducible assumption | with_reducible apply keeps_modPump | split

theorem keeps_sendGat (m : PumpMsg) (l : Line) : Keeps σ (sendGat m l τ) := by
  unfold sendGat
  repeat' first | with_reducible assumption | with_reducible apply keeps_modFla

theorem keeps_stopProgress : Keeps σ (stopProgress τ) := by
  unfold stopProgress
  repeat' first | with_reducible assumption | with_reducible apply keeps_modFla | split

theorem keeps_enterSub (c : Chamber) (p : SubPhase) : Keeps σ (enterSub c p τ) := by
  unfold enterSub
  repeat' first | with_reducible assumption | with_reducible apply keeps_openRough | with_reducible apply keeps_enterPhase

theorem keeps_takeGrant (c : Chamber) : Keeps σ (takeGrant c τ) := by
  unfold takeGrant
  repeat' first | with_reducible assumption | with_reducible apply keeps_enterPhase | with_reducible apply keeps_enterSub | with_reducible apply keeps_modExec | split

theorem keeps_takePause (c : Chamber) : Keeps σ (takePause c τ) := by
  unfold takePause
  repeat' first | with_reducible assumption | with_reducible apply keeps_closeRough | with_reducible apply keeps_enterPhase | with_reducible apply keeps_modExec | split

theorem keeps_takeResume (c : Chamber) : Keeps σ (takeResume c τ) := by
  unfold takeResume
  repeat' first | with_reducible assumption | with_reducible apply keeps_enterSub | split

theorem keeps_toIdle : Keeps σ (toIdle τ) := by
  unfold toIdle
  repeat' first | with_reducible assumption | with_reducible apply keeps_postForeline | with_reducible apply keeps_modFla | split

theorem keeps_grantChamber (c : Chamber) : Keeps σ (grantChamber c τ) := by
  unfold grantChamber
  repeat' first | with_reducible assumption | with_reducible apply keeps_postForeline | with_reducible apply keeps_takeGrant | with_reducible apply keeps_modFla

theorem keeps_grantLines (xs : List PumpEntry) : Keeps σ (grantLines xs τ) := by
  induction xs generalizing τ with
  | nil => exact keeps_toIdle keep
  | cons p rest ih =>
    unfold grantLines
    dsimp only
    repeat' first | with_reducible assumption | apply ih | with_reducible apply keeps_openPump | with_reducible apply keeps_sendGat | with_reducible apply keeps_postForeline | with_reducible apply keeps_modFla | split

theorem keeps_grantDecision : Keeps σ (grantDecision τ) := by
  unfold grantDecision
  repeat' first | with_reducible assumption | with_reducible apply keeps_toIdle | with_reducible apply keeps_grantChamber | with_reducible apply keeps_grantLines | split

theorem keeps_vacate : Keeps σ (vacate τ) := by
  unfold vacate
  dsimp only
  repeat' first | with_reducible assumption | with_reducible apply keeps_postForeline | with_reducible apply keeps_grantDecision | with_reducible apply keeps_modFla | split

theorem keeps_handoverCheck : Keeps σ (handoverCheck τ) := by
  unfold handoverCheck
  repeat' first | with_reducible assumption | with_reducible apply keeps_grantDecision | split

theorem keeps_blockCleared : Keeps σ (blockCleared τ) := by
  unfold blockCleared
  repeat' first | with_reducible assumption | with_reducible apply keeps_grantDecision | split

theorem keeps_withdraw (c : Chamber) : Keeps σ (withdraw c τ) := by
  unfold withdraw
  repeat' first | with_reducible assumption | with_reducible apply keeps_modFla

theorem keeps_releaseForeline (c : Chamber) : Keeps σ (releaseForeline c τ) := by
  unfold releaseForeline
  repeat' first | with_reducible assumption | with_reducible apply keeps_vacate | split

theorem keeps_leaveForeline (c : Chamber) : Keeps σ (leaveForeline c τ) := by
  unfold leaveForeline
  repeat' first | with_reducible assumption | with_reducible apply keeps_withdraw | with_reducible apply keeps_releaseForeline

theorem keeps_yieldPumpout : Keeps σ (yieldPumpout τ) := by
  unfold yieldPumpout
  repeat' first | with_reducible assumption | with_reducible apply keeps_closePump | with_reducible apply keeps_sendGat | with_reducible apply keeps_stopProgress | with_reducible apply keeps_vacate | split

theorem keeps_takeListing (l : Line) : Keeps σ (takeListing l τ) := by
  unfold takeListing
  repeat' first | with_reducible assumption | with_reducible apply keeps_blockCleared | with_reducible apply keeps_modFla | split

theorem keeps_dropEntry (l : Line) : Keeps σ (dropEntry l τ) := by
  unfold dropEntry
  repeat' first | with_reducible assumption | with_reducible apply keeps_modFla

theorem keeps_takeRemoval (l : Line) : Keeps σ (takeRemoval l τ) := by
  unfold takeRemoval
  repeat' first | with_reducible assumption | with_reducible apply keeps_closePump | with_reducible apply keeps_vacate | with_reducible apply keeps_dropEntry | split

theorem keeps_completePumpout (l : Line) : Keeps σ (completePumpout l τ) := by
  unfold completePumpout
  repeat' first | with_reducible assumption | with_reducible apply keeps_closePump | with_reducible apply keeps_sendGat | with_reducible apply keeps_vacate | with_reducible apply keeps_dropEntry

theorem keeps_requestForeline (c : Chamber) : Keeps σ (requestForeline c τ) := by
  unfold requestForeline
  dsimp only
  repeat' first | with_reducible assumption | with_reducible apply keeps_stopRoughTimer | with_reducible apply keeps_postChstate | with_reducible apply keeps_grantDecision | with_reducible apply keeps_yieldPumpout | with_reducible apply keeps_modCh' | with_reducible apply keeps_modFla | (intro _; rfl) | split

theorem keeps_setPause (b : Bool) : Keeps σ (setPause b τ) := by
  unfold setPause
  dsimp only
  repeat' first | with_reducible assumption | with_reducible apply keeps_postForeline | with_reducible apply keeps_closePump | with_reducible apply keeps_openPump | with_reducible apply keeps_stopProgress | with_reducible apply keeps_takePause | with_reducible apply keeps_takeResume | with_reducible apply keeps_modFla | split

theorem keeps_takeForelineReading (p : Nat) : Keeps σ (takeForelineReading p τ) := by
  unfold takeForelineReading
  repeat' first | with_reducible assumption | with_reducible apply keeps_setPause | with_reducible apply keeps_modFla

theorem keeps_forelineUnknown : Keeps σ (forelineUnknown τ) := by
  unfold forelineUnknown
  repeat' first | with_reducible assumption | with_reducible apply keeps_setPause | with_reducible apply keeps_modFla

/-! ## Chamber.lean -/

theorem keeps_setSlot {c : Chamber} {f : Csq → Slot} {r : Csq → Option StepRec} {g : Csq → Csq}
    (hl : ∀ q : Csq, (g q).lawful = q.lawful) (hr : ∀ q : Csq, (g q).reports = q.reports) :
    Keeps σ (τ.modCh c (fun q => g (q.setSlot (f q) (r q)))) :=
  keeps_modCh' keep (fun q => by rw [hl]; cases f q <;> rfl) (fun q => by rw [hr]; cases f q <;> rfl)

theorem keeps_endStep (c : Chamber) (res : Result) : Keeps σ (endStep c res τ) := by
  unfold endStep
  split
  · exact keep
  · dsimp only
    refine keeps_post ?_ _
    refine keeps_setSlot (g := fun q => { q with exec := none }) ?_ (fun _ => rfl) (fun _ => rfl)
    repeat' first | with_reducible assumption | with_reducible apply keeps_fileReport | with_reducible apply keeps_stopRf | refine keeps_modCh' ?_ (fun _ => rfl) (fun _ => rfl) | split

theorem keeps_flushWaiting (c : Chamber) : Keeps σ (flushWaiting c τ) := by
  unfold flushWaiting
  split
  · exact keep
  · dsimp only
    refine keeps_post ?_ _
    exact keeps_modCh' (keeps_fileReport keep _ _) (fun q => by cases e : q.runPtr <;> rfl) (fun q => by cases e : q.runPtr <;> rfl)

theorem keeps_faultChamber (c : Chamber) (cause : Result) : Keeps σ (faultChamber c cause τ) := by
  unfold faultChamber
  dsimp only
  repeat' first | with_reducible assumption | with_reducible apply keeps_post | with_reducible apply keeps_postChstate | with_reducible apply keeps_closeValve | with_reducible apply keeps_closeRough | with_reducible apply keeps_zeroTargets | with_reducible apply keeps_zeroCurrents | with_reducible apply keeps_clearDeviations | with_reducible apply keeps_setThrottle | with_reducible apply keeps_stopRf | with_reducible apply keeps_releaseHoldings | with_reducible apply keeps_leaveForeline | with_reducible apply keeps_endStep | with_reducible apply keeps_flushWaiting | with_reducible apply keeps_modCh' | (intro _; rfl) | split

theorem keeps_enterReady (c : Chamber) : Keeps σ (enterReady c τ) := by
  unfold enterReady
  dsimp only
  repeat' first | with_reducible assumption | with_reducible apply keeps_postChstate | with_reducible apply keeps_closeRough | with_reducible apply keeps_zeroTargets | with_reducible apply keeps_clearDeviations | with_reducible apply keeps_setThrottle | with_reducible apply keeps_stopRf | with_reducible apply keeps_releaseHoldings | with_reducible apply keeps_leaveForeline | with_reducible apply keeps_modCh' | (intro _; rfl)

theorem keeps_enterHeld (c : Chamber) : Keeps σ (enterHeld c τ) := by
  unfold enterHeld
  repeat' first | with_reducible assumption | with_reducible apply keeps_postChstate | with_reducible apply keeps_modCh' | (intro _; rfl)

theorem keeps_abortValves (c : Chamber) : Keeps σ (abortValves c τ) := by
  unfold abortValves
  repeat' first | with_reducible assumption | with_reducible apply keeps_closeValve | split

theorem keeps_abortStep (c : Chamber) : Keeps σ (abortStep c τ) := by
  unfold abortStep
  dsimp only
  repeat' first | with_reducible assumption | with_reducible apply keeps_endStep | with_reducible apply keeps_flushWaiting | with_reducible apply keeps_enterReady | with_reducible apply keeps_abortValves | with_reducible apply keeps_modCh' | (intro _; rfl)

/-! ## Gas.lean -/

theorem keeps_withTargets (c : Chamber) (want : Channel → Nat) {g : State → State}
    (hg : ∀ u, Keeps σ u → Keeps σ (g u)) : Keeps σ (withTargets c want g τ) := by
  unfold withTargets
  split
  · exact keeps_faultChamber keep _ _
  · exact hg _ (keeps_setTargets keep _ _)

theorem keeps_enterPurge (c : Chamber) (r : StepRec) : Keeps σ (enterPurge c r τ) := by
  unfold enterPurge
  dsimp only
  repeat' first | with_reducible assumption | with_reducible apply keeps_enterPhase | with_reducible apply keeps_setThrottle | (with_reducible refine keeps_withTargets ?_ _ _ (fun _ keep => ?_)) | with_reducible apply keeps_modExec | split

theorem keeps_enterWork (c : Chamber) (r : StepRec) : Keeps σ (enterWork c r τ) := by
  unfold enterWork
  dsimp only
  repeat' first | with_reducible assumption | with_reducible apply keeps_enterPhase | with_reducible apply keeps_startMain | with_reducible apply keeps_setThrottle | (with_reducible refine keeps_withTargets ?_ _ _ (fun _ keep => ?_)) | with_reducible apply keeps_modExec | split

theorem keeps_admit (c : Chamber) (rq : Request) : Keeps σ (admitChamber c rq τ) := by
  unfold admitChamber
  dsimp only
  repeat' first | with_reducible assumption | with_reducible apply keeps_leaveQueue | with_reducible apply keeps_oweService | with_reducible apply keeps_enterPurge | with_reducible apply keeps_enterWork | with_reducible apply keeps_modCh' | with_reducible apply keeps_modExec | (intro _; rfl) | split

theorem keeps_enterAdmit (c : Chamber) (r : StepRec) : Keeps σ (enterAdmit c r τ) := by
  unfold enterAdmit
  dsimp only
  repeat' first | with_reducible assumption | with_reducible apply keeps_enterPhase | with_reducible apply keeps_faultChamber | with_reducible apply keeps_admit | with_reducible apply keeps_modCh' | with_reducible apply keeps_modExec | with_reducible apply keeps_modGat | (intro _; rfl) | split

theorem keeps_tryAdmit (c : Chamber) : Keeps σ (tryAdmit c τ).1 := by
  unfold tryAdmit
  repeat' first | with_reducible assumption | with_reducible apply keeps_admit | split

theorem keeps_servicePass (xs : List Chamber) : Keeps σ (servicePass xs τ).1 := by
  induction xs generalizing τ with
  | nil => exact keep
  | cons c rest ih => exact ih (keeps_tryAdmit keep c)

theorem keeps_serviceRuns (n : Nat) : Keeps σ (serviceRuns n τ) := by
  induction n generalizing τ with
  | zero => exact keep
  | succ n ih =>
    unfold serviceRuns
    dsimp only
    split
    · exact ih (keeps_servicePass keep _)
    · exact keeps_servicePass keep _

theorem keeps_runService : Keeps σ (runService τ) := by
  unfold runService
  dsimp only
  repeat' first | with_reducible assumption | with_reducible apply keeps_serviceRuns | with_reducible apply keeps_modGat | (intro _; rfl) | split

theorem keeps_faultHolders (l : Line) : Keeps σ (faultHolders l τ) := by
  unfold faultHolders
  repeat' first | with_reducible assumption | with_reducible apply keeps_faultChamber | (with_reducible refine keeps_foldl _ (fun _ _ keep => ?_) ?_) | split

theorem keeps_faultWaiters (l : Line) : Keeps σ (faultWaiters l τ) := by
  unfold faultWaiters
  repeat' first | with_reducible assumption | with_reducible apply keeps_faultChamber | (with_reducible refine keeps_foldl _ (fun _ _ keep => ?_) ?_) | split

theorem keeps_lockLine (l : Line) (cause : LineCause) : Keeps σ (lockLine l cause τ) := by
  unfold lockLine
  repeat' first | with_reducible assumption | with_reducible apply keeps_oweService | with_reducible apply keeps_setLineState | with_reducible apply keeps_faultHolders | with_reducible apply keeps_faultWaiters

theorem keeps_sendFla (m : ListMsg) (l : Line) : Keeps σ (sendFla m l τ) := by
  unfold sendFla
  repeat' first | with_reducible assumption | with_reducible apply keeps_modGat | (intro _; rfl)

theorem keeps_lockOut (l : Line) (cause : LineCause) : Keeps σ (lockOut l cause τ) := by
  unfold lockOut
  dsimp only
  repeat' first | with_reducible assumption | with_reducible apply keeps_lockLine | with_reducible apply keeps_sendFla | split

theorem keeps_takePumpMsg (m : PumpMsg) (l : Line) : Keeps σ (takePumpMsg m l τ) := by
  unfold takePumpMsg
  repeat' first | with_reducible assumption | with_reducible apply keeps_oweService | with_reducible apply keeps_setLineState | split

theorem keeps_takeAllPumpMsgs (l : Line) : Keeps σ (takeAllPumpMsgs l τ) :=
  keeps_foldl _ (fun _ _ k => keeps_takePumpMsg k _ _) (keeps_modFla keep)

/-! ## Process.lean -/

theorem keeps_enterHighVac (c : Chamber) : Keeps σ (enterHighVac c τ) := by
  unfold enterHighVac
  dsimp only
  repeat' first | with_reducible assumption | with_reducible apply keeps_enterPhase | with_reducible apply keeps_startMain | with_reducible apply keeps_modExec

theorem keeps_crossoverOn (c : Chamber) : Keeps σ (crossoverOn c τ) := by
  unfold crossoverOn
  repeat' first | with_reducible assumption | with_reducible apply keeps_openGate | with_reducible apply keeps_faultChamber | with_reducible apply keeps_enterHighVac | split

theorem keeps_enterCrossover (c : Chamber) : Keeps σ (enterCrossover c τ) := by
  unfold enterCrossover
  dsimp only
  repeat' first | with_reducible assumption | with_reducible apply keeps_closeRough | with_reducible apply keeps_stopRoughTimer | with_reducible apply keeps_enterPhase | with_reducible apply keeps_leaveForeline | with_reducible apply keeps_crossoverOn

theorem keeps_startPumpdown (c : Chamber) : Keeps σ (startPumpdown c τ) := by
  unfold startPumpdown
  dsimp only
  repeat' first | with_reducible assumption | with_reducible apply keeps_closeValve | with_reducible apply keeps_zeroTargets | with_reducible apply keeps_setThrottle | with_reducible apply keeps_releaseHoldings | with_reducible apply keeps_requestForeline | with_reducible apply keeps_enterHighVac | with_reducible apply keeps_enterCrossover | with_reducible apply keeps_modCh' | (intro _; rfl) | split

theorem keeps_enterVenting (c : Chamber) : Keeps σ (enterVenting c τ) := by
  unfold enterVenting
  dsimp only
  repeat' first | with_reducible assumption | with_reducible apply keeps_enterPhase | with_reducible apply keeps_startMain | with_reducible apply keeps_modCh' | with_reducible apply keeps_modExec | (intro _; rfl)

theorem keeps_ventIsolateOn (c : Chamber) : Keeps σ (ventIsolateOn c τ) := by
  unfold ventIsolateOn
  repeat' first | with_reducible assumption | with_reducible apply keeps_openVent | with_reducible apply keeps_enterVenting | split

theorem keeps_startVent (c : Chamber) : Keeps σ (startVent c τ) := by
  unfold startVent
  dsimp only
  repeat' first | with_reducible assumption | with_reducible apply keeps_closeValve | with_reducible apply keeps_enterPhase | with_reducible apply keeps_zeroTargets | with_reducible apply keeps_setThrottle | with_reducible apply keeps_releaseHoldings | with_reducible apply keeps_ventIsolateOn | split

theorem keeps_startStep (c : Chamber) : Keeps σ (startStep c τ) := by
  unfold startStep
  dsimp only
  repeat' first | with_reducible assumption | with_reducible apply keeps_post | with_reducible apply keeps_faultChamber | with_reducible apply keeps_enterAdmit | with_reducible apply keeps_startPumpdown | with_reducible apply keeps_startVent | with_reducible apply keeps_modCh' | (intro _; rfl) | split

theorem keeps_handover (c : Chamber) (k : Kind) : Keeps σ (handover c k τ) := by
  unfold handover
  repeat' first | with_reducible assumption | with_reducible apply keeps_enterReady | with_reducible apply keeps_enterHeld | with_reducible apply keeps_startStep | split

theorem keeps_endOk (c : Chamber) : Keeps σ (endOk c τ) := by
  unfold endOk
  repeat' first | with_reducible assumption | with_reducible apply keeps_endStep | with_reducible apply keeps_handover | split

theorem keeps_enterSteady (c : Chamber) (r : StepRec) : Keeps σ (enterSteady c r τ) := by
  unfold enterSteady
  repeat' first | with_reducible assumption | with_reducible apply keeps_enterPhase | with_reducible apply keeps_startMain | with_reducible apply keeps_modExec

theorem keeps_markBeforeStrike (c : Chamber) : Keeps σ (markBeforeStrike c τ) := by
  unfold markBeforeStrike
  repeat' first | with_reducible assumption | (with_reducible refine keeps_modIlc ?_ (fun _ l => l)) | split

theorem keeps_startRf (c : Chamber) (r : StepRec) : Keeps σ (startRf c r τ) := by
  unfold startRf
  repeat' first | with_reducible assumption | with_reducible apply keeps_setSource | with_reducible apply keeps_setBias | with_reducible apply keeps_modCh' | (intro _; rfl)

theorem keeps_enterStrike (c : Chamber) (r : StepRec) : Keeps σ (enterStrike c r τ) := by
  unfold enterStrike
  dsimp only
  repeat' first | with_reducible assumption | with_reducible apply keeps_enterPhase | with_reducible apply keeps_faultChamber | with_reducible apply keeps_markBeforeStrike | with_reducible apply keeps_startRf | with_reducible apply keeps_modExec | split

theorem keeps_settled (c : Chamber) : Keeps σ (settled c τ) := by
  unfold settled
  dsimp only
  repeat' first | with_reducible assumption | with_reducible apply keeps_enterSteady | with_reducible apply keeps_enterStrike | with_reducible apply keeps_modExec | split

theorem keeps_enterOveretch (c : Chamber) (o : Nat) : Keeps σ (enterOveretch c o τ) := by
  unfold enterOveretch
  repeat' first | with_reducible assumption | with_reducible apply keeps_enterPhase | with_reducible apply keeps_modExec

theorem keeps_endpointReached (c : Chamber) : Keeps σ (endpointReached c τ) := by
  unfold endpointReached
  dsimp only
  repeat' first | with_reducible assumption | with_reducible apply keeps_endOk | with_reducible apply keeps_enterOveretch | with_reducible apply keeps_modExec | split

theorem keeps_maskExpired (c : Chamber) : Keeps σ (maskExpired c τ) := by
  unfold maskExpired
  dsimp only
  repeat' first | with_reducible assumption | with_reducible apply keeps_endpointReached | with_reducible apply keeps_modExec | split

theorem keeps_enterEtch (c : Chamber) (r : StepRec) : Keeps σ (enterEtch c r τ) := by
  unfold enterEtch
  dsimp only
  repeat' first | with_reducible assumption | with_reducible apply keeps_enterPhase | with_reducible apply keeps_startMain | with_reducible apply keeps_maskExpired | with_reducible apply keeps_modExec | split

theorem keeps_enterCycling (c : Chamber) (r : StepRec) : Keeps σ (enterCycling c r τ) := by
  unfold enterCycling
  dsimp only
  repeat' first | with_reducible assumption | with_reducible apply keeps_enterPhase | with_reducible apply keeps_startMain | with_reducible apply keeps_modExec

theorem keeps_strikeConfirmed (c : Chamber) : Keeps σ (strikeConfirmed c τ) := by
  unfold strikeConfirmed
  dsimp only
  repeat' first | with_reducible assumption | with_reducible apply keeps_enterEtch | with_reducible apply keeps_enterCycling | with_reducible apply keeps_modExec | split

theorem keeps_switchCycle (c : Chamber) (r : StepRec) (toB : Bool) : Keeps σ (switchCycle c r toB τ) := by
  unfold switchCycle
  dsimp only
  repeat' first | with_reducible assumption | with_reducible apply keeps_setThrottle | with_reducible apply keeps_setSource | with_reducible apply keeps_setBias | (with_reducible refine keeps_withTargets ?_ _ _ (fun _ keep => ?_)) | with_reducible apply keeps_modCh' | (intro _; rfl) | split

theorem keeps_cyclePhaseEnd (c : Chamber) : Keeps σ (cyclePhaseEnd c τ) := by
  unfold cyclePhaseEnd
  dsimp only
  repeat' first | with_reducible assumption | with_reducible apply keeps_endOk | with_reducible apply keeps_switchCycle | with_reducible apply keeps_modExec | split

theorem keeps_choosePressure (c : Chamber) : Keeps σ (choosePressure c τ) := by
  unfold choosePressure
  dsimp only
  repeat' first | with_reducible assumption | with_reducible apply keeps_modCh' | (intro _; rfl) | split

theorem keeps_trackMinMax (c : Chamber) : Keeps σ (trackMinMax c τ) := by
  unfold trackMinMax
  repeat' first | with_reducible assumption | with_reducible apply keeps_modExec | split

theorem keeps_settleTest (c : Chamber) (e : StepCtx) : Keeps σ (settleTest c e τ) := by
  unfold settleTest
  repeat' first | with_reducible assumption | with_reducible apply keeps_settled | with_reducible apply keeps_modExec | split

theorem keeps_excursionTest (c : Chamber) (e : StepCtx) (target : Nat) : Keeps σ (excursionTest c e target τ) := by
  unfold excursionTest
  repeat' first | with_reducible assumption | with_reducible apply keeps_modExec | split

theorem keeps_pressureConditions (c : Chamber) (e : StepCtx) : Keeps σ (pressureConditions c e τ) := by
  unfold pressureConditions
  dsimp only
  repeat' first | with_reducible assumption | with_reducible apply keeps_closeValve | with_reducible apply keeps_enterSub | with_reducible apply keeps_enterCrossover | with_reducible apply keeps_endOk | with_reducible apply keeps_settleTest | with_reducible apply keeps_excursionTest | with_reducible apply keeps_modCh' | with_reducible apply keeps_modExec | (intro _; rfl) | split

theorem keeps_evaluatePressure (c : Chamber) : Keeps σ (evaluatePressure c τ) := by
  unfold evaluatePressure
  dsimp only
  repeat' first | with_reducible assumption | with_reducible apply keeps_choosePressure | with_reducible apply keeps_trackMinMax | with_reducible apply keeps_pressureConditions | split

theorem keeps_takeArc (c : Chamber) : Keeps σ (takeArc c τ) := by
  unfold takeArc
  dsimp only
  repeat' first | with_reducible assumption | with_reducible apply keeps_faultChamber | with_reducible apply keeps_modExec | split

theorem keeps_afterTravel (c : Chamber) : Keeps σ (afterTravel c τ) := by
  unfold afterTravel
  dsimp only
  repeat' first | with_reducible assumption | with_reducible apply keeps_stopRoughTimer | with_reducible apply keeps_openRough | with_reducible apply keeps_handoverCheck | with_reducible apply keeps_crossoverOn | with_reducible apply keeps_ventIsolateOn | split

end Sys2Proof.Machine
end

