-- ==== Sys2Proof/Laws/KeepsLinks.lean ====
section
/-! SUPPORT. Keeps for the flow arithmetic, the Instrument Link and the owners' answers to notices, and Holds for the
operations that change an input. -/

namespace Sys2Proof.Machine

/-- An integration never lowers a total and never passes its maximum (R105). -/
theorem LineDyn.integrate_total (n : Nat) (x : LineDyn) (h : x.total ≤ Config.totalMax) :
    x.total ≤ (x.integrate n).total ∧ (x.integrate n).total ≤ Config.totalMax := by
  simp only [LineDyn.integrate, addTotal]
  exact ⟨Nat.le_min.2 ⟨Nat.le_add_right _ _, h⟩, Nat.min_le_right _ _⟩

section
variable {σ τ : State} (keep : Keeps σ τ)
include keep

/-! ## Flow.lean -/

theorem keeps_rampUpdate (c : Chamber) (k : Channel) : Keeps σ (rampUpdate c k τ) := by
  unfold rampUpdate
  dsimp only
  repeat' first | with_reducible assumption | with_reducible apply keeps_modCh' | with_reducible apply keeps_modChan

theorem keeps_integrateReading (c : Chamber) (k : Channel) (m dt : Nat) : Keeps σ (integrateReading c k m dt τ) := by
  unfold integrateReading
  dsimp only
  split
  · exact keep
  · split
    · exact keep
    · exact keeps_modExec (keeps_modLine keep (fun x a => LineDyn.integrate_total _ x a)
        (fun _ _ => Nat.mod_lt _ (by decide)))

theorem keeps_takeFlowReading (c : Chamber) (k : Channel) (r : Nat) : Keeps σ (takeFlowReading c k r τ) := by
  unfold takeFlowReading
  dsimp only
  repeat' first | with_reducible assumption | with_reducible apply keeps_integrateReading | with_reducible apply keeps_modCh' | with_reducible apply keeps_modChan

theorem keeps_deviationExpired (c : Chamber) (k : Channel) : Keeps σ (deviationExpired c k τ) := by
  unfold deviationExpired
  dsimp only
  repeat' first | with_reducible assumption | with_reducible apply keeps_faultChamber | with_reducible apply keeps_modCh' | with_reducible apply keeps_modChan | split

/-! ## Instruments.lean -/

theorem keeps_forgetReading (c : Chamber) (r : Role) : Keeps σ (forgetReading c r τ) := by
  unfold forgetReading
  repeat' first | with_reducible assumption | with_reducible apply keeps_choosePressure | with_reducible apply keeps_modCh' | with_reducible apply keeps_modChan | (intro _; rfl) | split

theorem keeps_forelineFailed : Keeps σ (forelineFailed τ) := by
  unfold forelineFailed
  dsimp only
  repeat' first | with_reducible assumption | with_reducible apply keeps_postForeline | with_reducible apply keeps_yieldPumpout | with_reducible apply keeps_faultChamber | with_reducible apply keeps_modFla | split

theorem keeps_ownerReport (p : PollCfg) (old new : InstState) : Keeps σ (ownerReport p old new τ) := by
  unfold ownerReport
  dsimp only
  repeat' first | with_reducible assumption | with_reducible apply keeps_blockCleared | with_reducible apply keeps_forelineUnknown | with_reducible apply keeps_faultChamber | with_reducible apply keeps_forgetReading | with_reducible apply keeps_forelineFailed | split

theorem keeps_postInstr (e : EntryIx) (p : PollCfg) (st : InstState) (reason : InstReason) : Keeps σ (postInstr e p st reason τ) := by
  unfold postInstr
  repeat' first | with_reducible assumption | with_reducible apply keeps_post

theorem keeps_changeInst (e : EntryIx) (st : InstState) (reason : InstReason) : Keeps σ (changeInst e st reason τ) := by
  unfold changeInst
  dsimp only
  repeat' first | with_reducible assumption | with_reducible apply keeps_ownerReport | with_reducible apply keeps_postInstr | with_reducible apply keeps_modPoll

theorem keeps_validReply (e : EntryIx) : Keeps σ (validReply e τ) := by
  unfold validReply
  dsimp only
  repeat' first | with_reducible assumption | with_reducible apply keeps_changeInst | with_reducible apply keeps_modPoll | split

theorem keeps_missReply (e : EntryIx) : Keeps σ (missReply e τ) := by
  unfold missReply
  dsimp only
  repeat' first | with_reducible assumption | with_reducible apply keeps_changeInst | with_reducible apply keeps_modPoll | split

theorem keeps_buildRamp (p : PollCfg) : Keeps σ (buildRamp p τ) := by
  unfold buildRamp
  repeat' first | with_reducible assumption | with_reducible apply keeps_rampUpdate | split

theorem keeps_buildTxn (e : EntryIx) : Keeps σ (buildTxn e τ) := by
  unfold buildTxn
  dsimp only
  repeat' first | with_reducible assumption | with_reducible apply keeps_buildRamp | with_reducible apply keeps_modPoll | (with_reducible refine keeps_modIlc ?_ (fun _ l => l))

theorem keeps_buildNext : Keeps σ (buildNext τ) := by
  unfold buildNext
  repeat' first | with_reducible assumption | with_reducible apply keeps_buildTxn | (with_reducible refine keeps_modIlc ?_ (fun _ l => l)) | split

theorem keeps_tickCountdowns : Keeps σ (tickCountdowns τ) := by
  unfold tickCountdowns
  repeat' first | with_reducible assumption | with_reducible apply keeps_modPoll | (with_reducible refine keeps_foldl _ (fun _ _ keep => ?_) ?_)

theorem keeps_countLate (e : EntryIx) : Keeps σ (countLate e τ) := by
  unfold countLate
  dsimp only
  repeat' first | with_reducible assumption | with_reducible apply keeps_post | with_reducible apply keeps_modPoll | split

theorem keeps_beginFrame : Keeps σ (beginFrame τ) := by
  unfold beginFrame
  dsimp only
  refine keeps_buildNext (keeps_foldl _ (fun u e k => ?_) (keeps_modIlc (keeps_tickCountdowns keep) (fun i l => ?_)))
  · split
    · exact keeps_countLate k e
    · exact k
  · simp only [List.length_drop]
    omega

theorem keeps_endTxn : Keeps σ (endTxn τ) := by
  unfold endTxn
  dsimp only
  repeat' first | with_reducible assumption | with_reducible apply keeps_buildNext | with_reducible apply keeps_beginFrame | (with_reducible refine keeps_modIlc ?_ (fun _ l => l)) | split

theorem keeps_takeSource (c : Chamber) (before : Bool) (f r : Nat) : Keeps σ (takeSource c before f r τ) := by
  unfold takeSource
  dsimp only
  repeat' first | with_reducible assumption | with_reducible apply keeps_strikeConfirmed | with_reducible apply keeps_modCh' | (intro _; rfl) | split

theorem keeps_routeReading (p : PollCfg) (before : Bool) (data : List Byte) : Keeps σ (routeReading p before data τ) := by
  unfold routeReading
  repeat' first | with_reducible assumption | with_reducible apply keeps_takeForelineReading | with_reducible apply keeps_evaluatePressure | with_reducible apply keeps_takeFlowReading | with_reducible apply keeps_takeSource | with_reducible apply keeps_modCh' | (intro _; rfl) | split

theorem keeps_takeReply (t : Txn) (bs : List Byte) : Keeps σ (takeReply t bs τ) := by
  unfold takeReply
  dsimp only
  repeat' first | with_reducible assumption | with_reducible apply keeps_validReply | with_reducible apply keeps_missReply | with_reducible apply keeps_routeReading | split

theorem keeps_toUnknown (e : EntryIx) (reason : InstReason) : Keeps σ (toUnknown e reason τ) := by
  unfold toUnknown
  dsimp only
  repeat' first | with_reducible assumption | with_reducible apply keeps_changeInst | with_reducible apply keeps_modPoll | split

/-! ## Interlocks.lean -/

theorem keeps_csqNotice (c : Chamber) (i : Input) (l : Bool) : Keeps σ (csqNotice c i l τ) := by
  unfold csqNotice
  dsimp only
  repeat' first | with_reducible assumption | with_reducible apply keeps_faultChamber | with_reducible apply keeps_endpointReached | split

theorem keeps_flaNotice (i : Input) (l : Bool) : Keeps σ (flaNotice i l τ) := by
  unfold flaNotice
  repeat' first | with_reducible assumption | with_reducible apply keeps_blockCleared | with_reducible apply keeps_yieldPumpout | split

theorem keeps_cabinetDrop (n : Cabinet) : Keeps σ (cabinetDrop n τ) := by
  unfold cabinetDrop
  dsimp only
  repeat' first | with_reducible assumption | with_reducible apply keeps_lockOut | (with_reducible refine keeps_foldl _ (fun _ _ keep => ?_) ?_) | split

theorem keeps_gatNotice (i : Input) (l : Bool) : Keeps σ (gatNotice i l τ) := by
  unfold gatNotice
  repeat' first | with_reducible assumption | with_reducible apply keeps_oweService | with_reducible apply keeps_cabinetDrop | split

theorem keeps_takeNotice (n : Notice) : Keeps σ (takeNotice n τ) := by
  unfold takeNotice
  repeat' first | with_reducible assumption | with_reducible apply keeps_csqNotice | with_reducible apply keeps_flaNotice | with_reducible apply keeps_gatNotice | split

end

/-! ## The inputs: Holds -/

theorem holds_modIiu {σ τ : State} (h : Holds σ τ) (f : Iiu → Iiu) : Holds σ (τ.modIiu f) :=
  h.trans ⟨rfl, rfl, rfl, rfl, fun _ l => l, id, fun _ l => l, id, fun _ m => ⟨Nat.le_refl _, m⟩, fun _ m => m⟩

theorem holds_modInp {σ τ : State} (h : Holds σ τ) (i : Input) (f : InState → InState) : Holds σ (τ.modInp i f) :=
  holds_modIiu h _

/-- What Keeps from a state, Holds onward. -/
theorem Holds.then {σ τ υ : State} (h : Holds σ τ) (k : Keeps τ υ) : Holds σ υ := h.trans k.toHolds

/-- A change of every valve that engages none holds. -/
theorem holds_mapValves {σ τ : State} (h : Holds σ τ) (f : Nat → Valve → Valve)
    (hf : ∀ n v, (f n v).engaged = true → v.engaged = true) : Holds σ (mapValves f τ) := by
  unfold mapValves
  dsimp only
  refine h.then (keeps_modFla ?_)
  refine keeps_foldl _ (fun u c k => ?_) (Keeps.refl τ)
  refine keeps_modCh k (fun q l => ?_) (fun _ l => l)
  exact Csq.lawful_mono (hf _ _) (hf _ _) (hf _ _) (hf _ _) l

theorem holds_beginForcing {σ τ : State} (h : Holds σ τ) : Holds σ (beginForcing τ) :=
  holds_mapValves (holds_modIiu h _) _ (fun _ _ => Valve.force_engaged)

theorem holds_endForcing {σ τ : State} (h : Holds σ τ) : Holds σ (endForcing τ) :=
  holds_mapValves (holds_modIiu h _) _ (fun _ _ => Valve.unforce_engaged)

theorem holds_qualify {σ τ : State} (h : Holds σ τ) (i : Input) (l : Bool) : Holds σ (qualify i l τ) := by
  unfold qualify tellOwners
  dsimp only
  have p : Holds σ (post (.ilock i l (decide ((τ.inp i).qual = none))) (τ.modInp i (fun x => { x with qual := some l, timer := none }))) :=
    (holds_modInp h i _).then (keeps_post (Keeps.refl _) _)
  split
  · exact p
  · exact holds_modIiu p _

theorem holds_assertEmo {σ τ : State} (h : Holds σ τ) : Holds σ (assertEmo τ) := by
  unfold assertEmo
  dsimp only
  split
  · exact holds_modInp h _ _
  · split
    · exact holds_qualify (holds_modInp h _ _) _ _
    · exact holds_qualify (holds_beginForcing (holds_modInp h _ _)) _ _

theorem holds_rawChange {σ τ : State} (h : Holds σ τ) (i : Input) (l : Bool) : Holds σ (rawChange i l τ) := by
  unfold rawChange
  split
  · exact h
  · split
    · exact holds_assertEmo h
    · exact holds_modInp h _ _

theorem holds_qualifyExpired {σ τ : State} (h : Holds σ τ) (i : Input) : Holds σ (qualifyExpired i τ) := by
  unfold qualifyExpired
  dsimp only
  refine holds_qualify ?_ _ _
  split
  · exact holds_endForcing h
  · exact h

theorem holds_arcRise {σ τ : State} (h : Holds σ τ) (c : Chamber) : Holds σ (arcRise c τ) := by
  unfold arcRise
  dsimp only
  split
  · exact holds_modIiu h _
  · exact (holds_modIiu (holds_modIiu h _) _).then (keeps_takeArc (Keeps.refl _) c)

end Sys2Proof.Machine
end

