-- ==== Sys2Proof/Laws/Apart.lean ====
section
/-! SUPPORT. What an operation about other chambers leaves of a chamber that waits for nothing and does not hold the foreline
(Out, of Safety.lean): everything. -/

namespace Sys2Proof.Machine

/-- If the chamber is out in the first state, it is unchanged and still out in the second. -/
def Apart (κ : Chamber) (s t : State) : Prop := Out s κ → (t.ch κ = s.ch κ ∧ ∀ k, t.chan κ k = s.chan κ k) ∧ Out t κ

theorem Apart.refl (κ : Chamber) (s : State) : Apart κ s s := fun o => ⟨⟨rfl, fun _ => rfl⟩, o⟩

theorem Apart.trans {κ : Chamber} {s t u : State} (h : Apart κ s t) (g : Apart κ t u) : Apart κ s u := fun o =>
  have a := h o
  have b := g a.2
  ⟨⟨b.1.1.trans a.1.1, fun k => (b.1.2 k).trans (a.1.2 k)⟩, b.2⟩

theorem apart_foldl {κ : Chamber} {α : Type} {f : State → α → State} {s t : State} (xs : List α)
    (hf : ∀ u a, Apart κ s u → Apart κ s (f u a)) (h : Apart κ s t) : Apart κ s (xs.foldl f t) := by
  induction xs generalizing t with
  | nil => exact h
  | cons a rest ih => exact ih (hf t a h)

section
variable {κ : Chamber} {σ τ : State} (apart : Apart κ σ τ)
include apart

theorem apart_modCh {c : Chamber} {f : Csq → Csq} (ne : c ≠ κ) : Apart κ σ (τ.modCh c f) :=
  apart.trans (fun o => ⟨⟨by simp [ne], fun _ => rfl⟩, ⟨o.queue, o.waiting, o.holder⟩⟩)

theorem apart_modExec {c : Chamber} {f : StepCtx → StepCtx} (ne : c ≠ κ) : Apart κ σ (τ.modExec c f) := apart_modCh apart ne

theorem apart_modChan {c : Chamber} {k : Channel} {f : ChanCtx → ChanCtx} (ne : c ≠ κ) : Apart κ σ (τ.modChan c k f) :=
  apart.trans (fun o => ⟨⟨rfl, fun _ => by simp [ne]⟩, ⟨o.queue, o.waiting, o.holder⟩⟩)

theorem apart_modGat {f : Gat → Gat} (hq : ∀ g : Gat, (f g).queue = g.queue) : Apart κ σ (τ.modGat f) :=
  apart.trans (fun o => ⟨⟨rfl, fun _ => rfl⟩, ⟨by rw [State.modGat_gat, hq]; exact o.queue, o.waiting, o.holder⟩⟩)

theorem apart_modGat_queue {f : Gat → Gat} (hq : ∀ g : Gat, κ ∉ g.queue → κ ∉ (f g).queue) : Apart κ σ (τ.modGat f) :=
  apart.trans (fun o => ⟨⟨rfl, fun _ => rfl⟩, ⟨hq _ o.queue, o.waiting, o.holder⟩⟩)

theorem apart_modLine {l : Line} {f : LineDyn → LineDyn} : Apart κ σ (τ.modLine l f) := apart_modGat apart (fun _ => rfl)

theorem apart_modFla {f : Fla → Fla}
    (hf : ∀ a : Fla, a.waiting.look κ = false → a.holder ≠ some (.chamber κ) →
      (f a).waiting.look κ = false ∧ (f a).holder ≠ some (.chamber κ)) : Apart κ σ (τ.modFla f) :=
  apart.trans (fun o => ⟨⟨rfl, fun _ => rfl⟩, ⟨o.queue, (hf _ o.waiting o.holder).1, (hf _ o.waiting o.holder).2⟩⟩)

theorem apart_modIlc {f : Ilc → Ilc} : Apart κ σ (τ.modIlc f) :=
  apart.trans (fun o => ⟨⟨rfl, fun _ => rfl⟩, ⟨o.queue, o.waiting, o.holder⟩⟩)

theorem apart_modPoll {e : EntryIx} {f : PollDyn → PollDyn} : Apart κ σ (τ.modPoll e f) := apart_modIlc apart

theorem apart_modSvl {f : Svl → Svl} : Apart κ σ (τ.modSvl f) :=
  apart.trans (fun o => ⟨⟨rfl, fun _ => rfl⟩, ⟨o.queue, o.waiting, o.holder⟩⟩)

theorem apart_post (e : Event) : Apart κ σ (post e τ) := by
  unfold post
  repeat' first | with_reducible assumption | with_reducible apply apart_modSvl | split

theorem apart_postChstate (c : Chamber) : Apart κ σ (postChstate c τ) := apart_post apart _
theorem apart_postForeline : Apart κ σ (postForeline τ) := apart_post apart _

theorem apart_driveOpen {c : Chamber} (ne : c ≠ κ) (v : ChamberValve) : Apart κ σ (driveOpen c v τ) := apart_modCh apart ne
theorem apart_closeValve {c : Chamber} (ne : c ≠ κ) (v : ChamberValve) : Apart κ σ (closeValve c v τ) := apart_modCh apart ne

end

end Sys2Proof.Machine
end

