-- ==== Sys2Proof/Laws/ApartOps.lean ====
section
/-! SUPPORT. Apart for the shared operations, one lemma each, in the order in which they are defined: an operation on chambers
other than κ leaves κ as it is while κ is out. -/

namespace Sys2Proof.Machine

variable {κ : Chamber} {σ τ : State} (apart : Apart κ σ τ)
include apart

/-! ## Ops.lean -/

theorem apart_closeRough (c : Chamber) (ne : c ≠ κ) : Apart κ σ (closeRough c τ) := by
  unfold closeRough
  repeat' first | with_reducible assumption | with_reducible apply apart_closeValve

theorem apart_openGate (c : Chamber) (ne : c ≠ κ) : Apart κ σ (openGate c τ) := by
  unfold openGate
  repeat' first | with_reducible assumption | with_reducible apply apart_driveOpen | split

theorem apart_openVent (c : Chamber) (ne : c ≠ κ) : Apart κ σ (openVent c τ) := by
  unfold openVent
  repeat' first | with_reducible assumption | with_reducible apply apart_driveOpen | split

theorem apart_startRoughTimer (c : Chamber) (ne : c ≠ κ) : Apart κ σ (startRoughTimer c τ) := by
  unfold startRoughTimer
  repeat' first | with_reducible assumption | with_reducible apply apart_modExec

theorem apart_stopRoughTimer (c : Chamber) (ne : c ≠ κ) : Apart κ σ (stopRoughTimer c τ) := by
  unfold stopRoughTimer
  repeat' first | with_reducible assumption | with_reducible apply apart_modExec

theorem apart_openRough (c : Chamber) (ne : c ≠ κ) : Apart κ σ (openRough c τ) := by
  unfold openRough
  dsimp only
  repeat' first | with_reducible assumption | with_reducible apply apart_driveOpen | with_reducible apply apart_startRoughTimer | split

theorem apart_enterPhase (c : Chamber) (ne : c ≠ κ) (p : Phase) : Apart κ σ (enterPhase c p τ) := by
  unfold enterPhase
  repeat' first | with_reducible assumption | with_reducible apply apart_postChstate | with_reducible apply apart_modCh

theorem apart_startMain (c : Chamber) (ne : c ≠ κ) : Apart κ σ (startMain c τ) := by
  unfold startMain
  repeat' first | with_reducible assumption | with_reducible apply apart_modExec

theorem apart_urgentMark (c : Chamber) (ne : c ≠ κ) (r : Role) : Apart κ σ (urgentMark c r τ) := by
  unfold urgentMark
  repeat' first | with_reducible assumption | with_reducible apply apart_modIlc | split

theorem apart_addResidue (c : Chamber) (ne : c ≠ κ) (g : Option GasClass) : Apart κ σ (addResidue c g τ) := by
  unfold addResidue
  repeat' first | with_reducible assumption | with_reducible apply apart_modCh | split

theorem apart_setTarget (c : Chamber) (ne : c ≠ κ) (k : Channel) (v : Nat) : Apart κ σ (setTarget c k v τ) := by
  unfold setTarget
  dsimp only
  repeat' first | with_reducible assumption | with_reducible apply apart_urgentMark | with_reducible apply apart_addResidue | with_reducible apply apart_modChan | split

theorem apart_setTargets (c : Chamber) (ne : c ≠ κ) (want : Channel → Nat) : Apart κ σ (setTargets c want τ) := by
  unfold setTargets
  repeat' first | with_reducible assumption | with_reducible apply apart_setTarget | (with_reducible refine apart_foldl _ (fun _ _ apart => ?_) ?_)

theorem apart_zeroTargets (c : Chamber) (ne : c ≠ κ) : Apart κ σ (zeroTargets c τ) := by
  unfold zeroTargets
  repeat' first | with_reducible assumption | with_reducible apply apart_setTargets

theorem apart_zeroCurrents (c : Chamber) (ne : c ≠ κ) : Apart κ σ (zeroCurrents c τ) := by
  unfold zeroCurrents
  repeat' first | with_reducible assumption | with_reducible apply apart_modChan | (with_reducible refine apart_foldl _ (fun _ _ apart => ?_) ?_)

theorem apart_clearDeviations (c : Chamber) (ne : c ≠ κ) : Apart κ σ (clearDeviations c τ) := by
  unfold clearDeviations
  repeat' first | with_reducible assumption | with_reducible apply apart_modChan | (with_reducible refine apart_foldl _ (fun _ _ apart => ?_) ?_)

theorem apart_setThrottle (c : Chamber) (ne : c ≠ κ) (t : Throttle) : Apart κ σ (setThrottle c t τ) := by
  unfold setThrottle
  repeat' first | with_reducible assumption | with_reducible apply apart_urgentMark | with_reducible apply apart_modCh | split

theorem apart_setSource (c : Chamber) (ne : c ≠ κ) (w : Nat) : Apart κ σ (setSource c w τ) := by
  unfold setSource
  repeat' first | with_reducible assumption | with_reducible apply apart_urgentMark | with_reducible apply apart_modCh | split

theorem apart_setBias (c : Chamber) (ne : c ≠ κ) (w : Nat) : Apart κ σ (setBias c w τ) := by
  unfold setBias
  repeat' first | with_reducible assumption | with_reducible apply apart_urgentMark | with_reducible apply apart_modCh | split

theorem apart_stopRf (c : Chamber) (ne : c ≠ κ) : Apart κ σ (stopRf c τ) := by
  unfold stopRf
  repeat' first | with_reducible assumption | with_reducible apply apart_setSource | with_reducible apply apart_setBias | with_reducible apply apart_modCh

theorem apart_leaveQueue (c : Chamber) (ne : c ≠ κ) : Apart κ σ (leaveQueue c τ) :=
  apart_modGat_queue (apart_modCh apart ne) (fun g hk hm => hk (List.mem_of_mem_filter hm))

theorem apart_oweService : Apart κ σ (oweService τ) := by
  unfold oweService
  repeat' first | with_reducible assumption | with_reducible apply apart_modGat | (intro _; rfl)

theorem apart_releaseHoldings (c : Chamber) (ne : c ≠ κ) : Apart κ σ (releaseHoldings c τ) := by
  unfold releaseHoldings
  dsimp only
  repeat' first | with_reducible assumption | with_reducible apply apart_leaveQueue | with_reducible apply apart_oweService | with_reducible apply apart_modCh | split

theorem apart_fileReport (c : Chamber) (ne : c ≠ κ) (r : Report) : Apart κ σ (fileReport c r τ) := by
  unfold fileReport
  repeat' first | with_reducible assumption | with_reducible apply apart_modCh | split

theorem apart_setLineState (l : Line) (st : LineState) (cause : LineCause) : Apart κ σ (setLineState l st cause τ) := by
  unfold setLineState
  dsimp only
  repeat' first | with_reducible assumption | with_reducible apply apart_post | with_reducible apply apart_modLine

/-! ## Foreline.lean -/

theorem apart_modPump (l : Line) (f : Valve → Valve) : Apart κ σ (modPump l f τ) := by
  unfold modPump
  repeat' first | with_reducible assumption | with_reducible apply apart_modFla | exact fun _ w g => ⟨w, g⟩ | exact fun _ w _ => ⟨w, by simp⟩

theorem apart_closePump (l : Line) : Apart κ σ (closePump l τ) := by
  unfold closePump
  repeat' first | with_reducible assumption | with_reducible apply apart_modPump

theorem apart_openPump (l : Line) : Apart κ σ (openPump l τ) := by
  unfold openPump
  repeat' first | with_reducible assumption | with_reducible apply apart_modPump | split

theorem apart_sendGat (m : PumpMsg) (l : Line) : Apart κ σ (sendGat m l τ) := by
  unfold sendGat
  repeat' first | with_reducible assumption | with_reducible apply apart_modFla | exact fun _ w g => ⟨w, g⟩ | exact fun _ w _ => ⟨w, by simp⟩

theorem apart_stopProgress : Apart κ σ (stopProgress τ) := by
  unfold stopProgress
  repeat' first | with_reducible assumption | with_reducible apply apart_modFla | exact fun _ w g => ⟨w, g⟩ | exact fun _ w _ => ⟨w, by simp⟩ | split

theorem apart_enterSub (c : Chamber) (ne : c ≠ κ) (p : SubPhase) : Apart κ σ (enterSub c p τ) := by
  unfold enterSub
  repeat' first | with_reducible assumption | with_reducible apply apart_openRough | with_reducible apply apart_enterPhase

theorem apart_takeGrant (c : Chamber) (ne : c ≠ κ) : Apart κ σ (takeGrant c τ) := by
  unfold takeGrant
  repeat' first | with_reducible assumption | with_reducible apply apart_enterPhase | with_reducible apply apart_enterSub | with_reducible apply apart_modExec | split

theorem apart_takePause (c : Chamber) (ne : c ≠ κ) : Apart κ σ (takePause c τ) := by
  unfold takePause
  repeat' first | with_reducible assumption | with_reducible apply apart_closeRough | with_reducible apply apart_enterPhase | with_reducible apply apart_modExec | split

theorem apart_takeResume (c : Chamber) (ne : c ≠ κ) : Apart κ σ (takeResume c τ) := by
  unfold takeResume
  repeat' first | with_reducible assumption | with_reducible apply apart_enterSub | split

theorem apart_toIdle : Apart κ σ (toIdle τ) := by
  unfold toIdle
  repeat' first | with_reducible assumption | with_reducible apply apart_postForeline | with_reducible apply apart_modFla | exact fun _ w g => ⟨w, g⟩ | exact fun _ w _ => ⟨w, by simp⟩ | split

theorem apart_grantChamber (c : Chamber) (ne : c ≠ κ) : Apart κ σ (grantChamber c τ) := by
  unfold grantChamber
  refine apart_takeGrant (apart_postForeline (apart_modFla apart (fun a w _ => ?_))) c ne
  exact ⟨by simp [ne, w], by simpa using ne⟩

theorem apart_grantLines (xs : List PumpEntry) : Apart κ σ (grantLines xs τ) := by
  induction xs generalizing τ with
  | nil => exact apart_toIdle apart
  | cons p rest ih =>
    unfold grantLines
    dsimp only
    repeat' first | with_reducible assumption | apply ih | with_reducible apply apart_openPump | with_reducible apply apart_sendGat | with_reducible apply apart_postForeline | with_reducible apply apart_modFla | exact fun _ w g => ⟨w, g⟩ | exact fun _ w _ => ⟨w, by simp⟩ | split

/-- A chamber chosen by the decision waits. -/
theorem apart_grantDecision : Apart κ σ (grantDecision τ) := by
  unfold grantDecision
  split
  · exact apart_toIdle apart
  · split
    · rename_i c found
      intro o
      have w := List.find?_some found
      have o' := (apart o).2
      exact apart_grantChamber apart c (fun e => by simp [e, o'.waiting] at w) o
    · exact apart_grantLines apart _

theorem apart_vacate : Apart κ σ (vacate τ) := by
  unfold vacate
  dsimp only
  repeat' first | with_reducible assumption | with_reducible apply apart_postForeline | with_reducible apply apart_grantDecision | with_reducible apply apart_modFla | exact fun _ w g => ⟨w, g⟩ | exact fun _ w _ => ⟨w, by simp⟩ | split

theorem apart_handoverCheck : Apart κ σ (handoverCheck τ) := by
  unfold handoverCheck
  repeat' first | with_reducible assumption | with_reducible apply apart_grantDecision | split

theorem apart_blockCleared : Apart κ σ (blockCleared τ) := by
  unfold blockCleared
  repeat' first | with_reducible assumption | with_reducible apply apart_grantDecision | split

theorem apart_withdraw (c : Chamber) : Apart κ σ (withdraw c τ) :=
  apart_modFla apart (fun a w g => ⟨by simp [w], g⟩)

theorem apart_releaseForeline (c : Chamber) (ne : c ≠ κ) : Apart κ σ (releaseForeline c τ) := by
  unfold releaseForeline
  repeat' first | with_reducible assumption | with_reducible apply apart_vacate | split

theorem apart_leaveForeline (c : Chamber) (ne : c ≠ κ) : Apart κ σ (leaveForeline c τ) := by
  unfold leaveForeline
  repeat' first | with_reducible assumption | with_reducible apply apart_withdraw | with_reducible apply apart_releaseForeline

theorem apart_yieldPumpout : Apart κ σ (yieldPumpout τ) := by
  unfold yieldPumpout
  repeat' first | with_reducible assumption | with_reducible apply apart_closePump | with_reducible apply apart_sendGat | with_reducible apply apart_stopProgress | with_reducible apply apart_vacate | split

theorem apart_takeListing (l : Line) : Apart κ σ (takeListing l τ) := by
  unfold takeListing
  repeat' first | with_reducible assumption | with_reducible apply apart_blockCleared | with_reducible apply apart_modFla | exact fun _ w g => ⟨w, g⟩ | exact fun _ w _ => ⟨w, by simp⟩ | split

theorem apart_dropEntry (l : Line) : Apart κ σ (dropEntry l τ) := by
  unfold dropEntry
  repeat' first | with_reducible assumption | with_reducible apply apart_modFla | exact fun _ w g => ⟨w, g⟩ | exact fun _ w _ => ⟨w, by simp⟩

theorem apart_takeRemoval (l : Line) : Apart κ σ (takeRemoval l τ) := by
  unfold takeRemoval
  repeat' first | with_reducible assumption | with_reducible apply apart_closePump | with_reducible apply apart_vacate | with_reducible apply apart_dropEntry | split

theorem apart_completePumpout (l : Line) : Apart κ σ (completePumpout l τ) := by
  unfold completePumpout
  repeat' first | with_reducible assumption | with_reducible apply apart_closePump | with_reducible apply apart_sendGat | with_reducible apply apart_vacate | with_reducible apply apart_dropEntry

theorem apart_requestForeline (c : Chamber) (ne : c ≠ κ) : Apart κ σ (requestForeline c τ) := by
  unfold requestForeline
  have base : Apart κ σ ((stopRoughTimer c (τ.modCh c (fun q =>
      { q with phase := .waitForeline, exec := q.exec.map (fun e => { e with excursion := none }) }))).modFla
      (fun a => { a with waiting := a.waiting.put c true })) :=
    apart_modFla (apart_stopRoughTimer (apart_modCh apart ne) c ne) (fun a w g => ⟨by simp [ne, w], g⟩)
  dsimp only
  repeat' first | with_reducible assumption | with_reducible apply apart_grantDecision | with_reducible apply apart_yieldPumpout | with_reducible apply apart_postChstate | split

theorem apart_setPause (b : Bool) : Apart κ σ (setPause b τ) := by
  unfold setPause
  split
  · exact apart
  · have base : Apart κ σ (postForeline (τ.modFla (fun a => { a with pause := b }))) :=
      apart_postForeline (apart_modFla apart (fun _ w g => ⟨w, g⟩))
    have other : ∀ c, (postForeline (τ.modFla (fun a => { a with pause := b }))).fla.holder = some (.chamber c) →
        Out σ κ → c ≠ κ := fun c hc o e => (base o).2.holder (by rw [hc, e])
    dsimp only
    split
    · rename_i c _ hc; exact fun o => apart_takePause base c (other c hc o) o
    · rename_i c _ hc; exact fun o => apart_takeResume base c (other c hc o) o
    · exact apart_closePump (apart_stopProgress base) _
    · refine apart_openPump ?_ _
      exact apart_modFla base (fun _ w g => ⟨w, g⟩)
    · exact base

theorem apart_takeForelineReading (p : Nat) : Apart κ σ (takeForelineReading p τ) := by
  unfold takeForelineReading
  repeat' first | with_reducible assumption | with_reducible apply apart_setPause | with_reducible apply apart_modFla | exact fun _ w g => ⟨w, g⟩ | exact fun _ w _ => ⟨w, by simp⟩

theorem apart_forelineUnknown : Apart κ σ (forelineUnknown τ) := by
  unfold forelineUnknown
  repeat' first | with_reducible assumption | with_reducible apply apart_setPause | with_reducible apply apart_modFla | exact fun _ w g => ⟨w, g⟩ | exact fun _ w _ => ⟨w, by simp⟩

/-! ## Chamber.lean -/

theorem apart_endStep (c : Chamber) (ne : c ≠ κ) (res : Result) : Apart κ σ (endStep c res τ) := by
  unfold endStep
  dsimp only
  repeat' first | with_reducible assumption | with_reducible apply apart_post | with_reducible apply apart_stopRf | with_reducible apply apart_fileReport | with_reducible apply apart_modCh | split

theorem apart_flushWaiting (c : Chamber) (ne : c ≠ κ) : Apart κ σ (flushWaiting c τ) := by
  unfold flushWaiting
  dsimp only
  repeat' first | with_reducible assumption | with_reducible apply apart_post | with_reducible apply apart_fileReport | with_reducible apply apart_modCh | split

theorem apart_faultChamber (c : Chamber) (ne : c ≠ κ) (cause : Result) : Apart κ σ (faultChamber c cause τ) := by
  unfold faultChamber
  dsimp only
  repeat' first | with_reducible assumption | with_reducible apply apart_post | with_reducible apply apart_postChstate | with_reducible apply apart_closeValve | with_reducible apply apart_closeRough | with_reducible apply apart_zeroTargets | with_reducible apply apart_zeroCurrents | with_reducible apply apart_clearDeviations | with_reducible apply apart_setThrottle | with_reducible apply apart_stopRf | with_reducible apply apart_releaseHoldings | with_reducible apply apart_leaveForeline | with_reducible apply apart_endStep | with_reducible apply apart_flushWaiting | with_reducible apply apart_modCh | split

theorem apart_enterReady (c : Chamber) (ne : c ≠ κ) : Apart κ σ (enterReady c τ) := by
  unfold enterReady
  dsimp only
  repeat' first | with_reducible assumption | with_reducible apply apart_postChstate | with_reducible apply apart_closeRough | with_reducible apply apart_zeroTargets | with_reducible apply apart_clearDeviations | with_reducible apply apart_setThrottle | with_reducible apply apart_stopRf | with_reducible apply apart_releaseHoldings | with_reducible apply apart_leaveForeline | with_reducible apply apart_modCh

theorem apart_enterHeld (c : Chamber) (ne : c ≠ κ) : Apart κ σ (enterHeld c τ) := by
  unfold enterHeld
  repeat' first | with_reducible assumption | with_reducible apply apart_postChstate | with_reducible apply apart_modCh

theorem apart_abortValves (c : Chamber) (ne : c ≠ κ) : Apart κ σ (abortValves c τ) := by
  unfold abortValves
  repeat' first | with_reducible assumption | with_reducible apply apart_closeValve | split

theorem apart_abortStep (c : Chamber) (ne : c ≠ κ) : Apart κ σ (abortStep c τ) := by
  unfold abortStep
  dsimp only
  repeat' first | with_reducible assumption | with_reducible apply apart_endStep | with_reducible apply apart_flushWaiting | with_reducible apply apart_enterReady | with_reducible apply apart_abortValves | with_reducible apply apart_modCh

/-! ## Gas.lean -/

theorem apart_withTargets (c : Chamber) (want : Channel → Nat) {g : State → State}
    (hg : ∀ u, Apart κ σ u → Apart κ σ (g u)) (ne : c ≠ κ) : Apart κ σ (withTargets c want g τ) := by
  unfold withTargets
  split
  · exact apart_faultChamber apart _ ne _
  · exact hg _ (apart_setTargets apart _ ne _)

theorem apart_enterPurge (c : Chamber) (ne : c ≠ κ) (r : StepRec) : Apart κ σ (enterPurge c r τ) := by
  unfold enterPurge
  dsimp only
  repeat' first | with_reducible assumption | with_reducible apply apart_enterPhase | with_reducible apply apart_setThrottle | (with_reducible refine apart_withTargets ?_ _ _ (fun _ apart => ?_) ?_) | with_reducible apply apart_modExec | split

theorem apart_enterWork (c : Chamber) (ne : c ≠ κ) (r : StepRec) : Apart κ σ (enterWork c r τ) := by
  unfold enterWork
  dsimp only
  repeat' first | with_reducible assumption | with_reducible apply apart_enterPhase | with_reducible apply apart_startMain | with_reducible apply apart_setThrottle | (with_reducible refine apart_withTargets ?_ _ _ (fun _ apart => ?_) ?_) | with_reducible apply apart_modExec | split

theorem apart_admit (c : Chamber) (ne : c ≠ κ) (rq : Request) : Apart κ σ (admitChamber c rq τ) := by
  unfold admitChamber
  dsimp only
  repeat' first | with_reducible assumption | with_reducible apply apart_leaveQueue | with_reducible apply apart_oweService | with_reducible apply apart_enterPurge | with_reducible apply apart_enterWork | with_reducible apply apart_modCh | with_reducible apply apart_modExec | split

theorem apart_enterAdmit (c : Chamber) (ne : c ≠ κ) (r : StepRec) : Apart κ σ (enterAdmit c r τ) := by
  unfold enterAdmit
  dsimp only
  split
  · exact apart_faultChamber (apart_modExec (apart_enterPhase (apart_modExec apart ne) c ne _) ne) c ne _
  · split
    · exact apart_admit (apart_enterPhase (apart_modExec apart ne) c ne _) c ne _
    · refine apart_modGat_queue (apart_modCh (apart_enterPhase (apart_modExec apart ne) c ne _) ne) (fun g hk hm => ?_)
      simp only [List.mem_append, List.mem_singleton] at hm
      exact hm.elim hk (fun e => ne e.symm)

theorem apart_tryAdmit (c : Chamber) : Apart κ σ (tryAdmit c τ).1 := by
  unfold tryAdmit
  repeat' first | with_reducible assumption | split
  rename_i inQueue _ rq _ _
  exact fun o => apart_admit apart c (fun e => (apart o).2.queue (e ▸ inQueue)) rq o

theorem apart_servicePass (xs : List Chamber) : Apart κ σ (servicePass xs τ).1 := by
  induction xs generalizing τ with
  | nil => exact apart
  | cons c rest ih => exact ih (apart_tryAdmit apart c)

theorem apart_serviceRuns (n : Nat) : Apart κ σ (serviceRuns n τ) := by
  induction n generalizing τ with
  | zero => exact apart
  | succ n ih =>
    unfold serviceRuns
    dsimp only
    split
    · exact ih (apart_servicePass apart _)
    · exact apart_servicePass apart _

theorem apart_runService : Apart κ σ (runService τ) := by
  unfold runService
  dsimp only
  repeat' first | with_reducible assumption | with_reducible apply apart_serviceRuns | with_reducible apply apart_modGat | (intro _; rfl) | split

theorem apart_sendFla (m : ListMsg) (l : Line) : Apart κ σ (sendFla m l τ) := by
  unfold sendFla
  repeat' first | with_reducible assumption | with_reducible apply apart_modGat | (intro _; rfl)

theorem apart_takePumpMsg (m : PumpMsg) (l : Line) : Apart κ σ (takePumpMsg m l τ) := by
  unfold takePumpMsg
  repeat' first | with_reducible assumption | with_reducible apply apart_oweService | with_reducible apply apart_setLineState | split

theorem apart_takeAllPumpMsgs (l : Line) : Apart κ σ (takeAllPumpMsgs l τ) := by
  unfold takeAllPumpMsgs
  dsimp only
  repeat' first | with_reducible assumption | with_reducible apply apart_takePumpMsg | with_reducible apply apart_modFla | (with_reducible refine apart_foldl _ (fun _ _ apart => ?_) ?_) | exact fun _ w g => ⟨w, g⟩ | exact fun _ w _ => ⟨w, by simp⟩

/-! ## Process.lean -/

theorem apart_enterHighVac (c : Chamber) (ne : c ≠ κ) : Apart κ σ (enterHighVac c τ) := by
  unfold enterHighVac
  dsimp only
  repeat' first | with_reducible assumption | with_reducible apply apart_enterPhase | with_reducible apply apart_startMain | with_reducible apply apart_modExec

theorem apart_crossoverOn (c : Chamber) (ne : c ≠ κ) : Apart κ σ (crossoverOn c τ) := by
  unfold crossoverOn
  repeat' first | with_reducible assumption | with_reducible apply apart_openGate | with_reducible apply apart_faultChamber | with_reducible apply apart_enterHighVac | split

theorem apart_enterCrossover (c : Chamber) (ne : c ≠ κ) : Apart κ σ (enterCrossover c τ) := by
  unfold enterCrossover
  dsimp only
  repeat' first | with_reducible assumption | with_reducible apply apart_closeRough | with_reducible apply apart_stopRoughTimer | with_reducible apply apart_enterPhase | with_reducible apply apart_leaveForeline | with_reducible apply apart_crossoverOn

theorem apart_startPumpdown (c : Chamber) (ne : c ≠ κ) : Apart κ σ (startPumpdown c τ) := by
  unfold startPumpdown
  dsimp only
  repeat' first | with_reducible assumption | with_reducible apply apart_closeValve | with_reducible apply apart_zeroTargets | with_reducible apply apart_setThrottle | with_reducible apply apart_releaseHoldings | with_reducible apply apart_requestForeline | with_reducible apply apart_enterHighVac | with_reducible apply apart_enterCrossover | with_reducible apply apart_modCh | split

theorem apart_enterVenting (c : Chamber) (ne : c ≠ κ) : Apart κ σ (enterVenting c τ) := by
  unfold enterVenting
  dsimp only
  repeat' first | with_reducible assumption | with_reducible apply apart_enterPhase | with_reducible apply apart_startMain | with_reducible apply apart_modCh | with_reducible apply apart_modExec

theorem apart_ventIsolateOn (c : Chamber) (ne : c ≠ κ) : Apart κ σ (ventIsolateOn c τ) := by
  unfold ventIsolateOn
  repeat' first | with_reducible assumption | with_reducible apply apart_openVent | with_reducible apply apart_enterVenting | split

theorem apart_startVent (c : Chamber) (ne : c ≠ κ) : Apart κ σ (startVent c τ) := by
  unfold startVent
  dsimp only
  repeat' first | with_reducible assumption | with_reducible apply apart_closeValve | with_reducible apply apart_enterPhase | with_reducible apply apart_zeroTargets | with_reducible apply apart_setThrottle | with_reducible apply apart_releaseHoldings | with_reducible apply apart_ventIsolateOn | split

theorem apart_startStep (c : Chamber) (ne : c ≠ κ) : Apart κ σ (startStep c τ) := by
  unfold startStep
  dsimp only
  repeat' first | with_reducible assumption | with_reducible apply apart_post | with_reducible apply apart_faultChamber | with_reducible apply apart_enterAdmit | with_reducible apply apart_startPumpdown | with_reducible apply apart_startVent | with_reducible apply apart_modCh | split

theorem apart_handover (c : Chamber) (ne : c ≠ κ) (k : Kind) : Apart κ σ (handover c k τ) := by
  unfold handover
  repeat' first | with_reducible assumption | with_reducible apply apart_enterReady | with_reducible apply apart_enterHeld | with_reducible apply apart_startStep | split

theorem apart_endOk (c : Chamber) (ne : c ≠ κ) : Apart κ σ (endOk c τ) := by
  unfold endOk
  repeat' first | with_reducible assumption | with_reducible apply apart_endStep | with_reducible apply apart_handover | split

theorem apart_enterSteady (c : Chamber) (ne : c ≠ κ) (r : StepRec) : Apart κ σ (enterSteady c r τ) := by
  unfold enterSteady
  repeat' first | with_reducible assumption | with_reducible apply apart_enterPhase | with_reducible apply apart_startMain | with_reducible apply apart_modExec

theorem apart_markBeforeStrike (c : Chamber) (ne : c ≠ κ) : Apart κ σ (markBeforeStrike c τ) := by
  unfold markBeforeStrike
  repeat' first | with_reducible assumption | with_reducible apply apart_modIlc | split

theorem apart_startRf (c : Chamber) (ne : c ≠ κ) (r : StepRec) : Apart κ σ (startRf c r τ) := by
  unfold startRf
  repeat' first | with_reducible assumption | with_reducible apply apart_setSource | with_reducible apply apart_setBias | with_reducible apply apart_modCh

theorem apart_enterStrike (c : Chamber) (ne : c ≠ κ) (r : StepRec) : Apart κ σ (enterStrike c r τ) := by
  unfold enterStrike
  dsimp only
  repeat' first | with_reducible assumption | with_reducible apply apart_enterPhase | with_reducible apply apart_faultChamber | with_reducible apply apart_markBeforeStrike | with_reducible apply apart_startRf | with_reducible apply apart_modExec | split

theorem apart_settled (c : Chamber) (ne : c ≠ κ) : Apart κ σ (settled c τ) := by
  unfold settled
  dsimp only
  repeat' first | with_reducible assumption | with_reducible apply apart_enterSteady | with_reducible apply apart_enterStrike | with_reducible apply apart_modExec | split

theorem apart_enterOveretch (c : Chamber) (ne : c ≠ κ) (o : Nat) : Apart κ σ (enterOveretch c o τ) := by
  unfold enterOveretch
  repeat' first | with_reducible assumption | with_reducible apply apart_enterPhase | with_reducible apply apart_modExec

theorem apart_endpointReached (c : Chamber) (ne : c ≠ κ) : Apart κ σ (endpointReached c τ) := by
  unfold endpointReached
  dsimp only
  repeat' first | with_reducible assumption | with_reducible apply apart_endOk | with_reducible apply apart_enterOveretch | with_reducible apply apart_modExec | split

theorem apart_maskExpired (c : Chamber) (ne : c ≠ κ) : Apart κ σ (maskExpired c τ) := by
  unfold maskExpired
  dsimp only
  repeat' first | with_reducible assumption | with_reducible apply apart_endpointReached | with_reducible apply apart_modExec | split

theorem apart_enterEtch (c : Chamber) (ne : c ≠ κ) (r : StepRec) : Apart κ σ (enterEtch c r τ) := by
  unfold enterEtch
  dsimp only
  repeat' first | with_reducible assumption | with_reducible apply apart_enterPhase | with_reducible apply apart_startMain | with_reducible apply apart_maskExpired | with_reducible apply apart_modExec | split

theorem apart_enterCycling (c : Chamber) (ne : c ≠ κ) (r : StepRec) : Apart κ σ (enterCycling c r τ) := by
  unfold enterCycling
  dsimp only
  repeat' first | with_reducible assumption | with_reducible apply apart_enterPhase | with_reducible apply apart_startMain | with_reducible apply apart_modExec

theorem apart_strikeConfirmed (c : Chamber) (ne : c ≠ κ) : Apart κ σ (strikeConfirmed c τ) := by
  unfold strikeConfirmed
  dsimp only
  repeat' first | with_reducible assumption | with_reducible apply apart_enterEtch | with_reducible apply apart_enterCycling | with_reducible apply apart_modExec | split

theorem apart_switchCycle (c : Chamber) (ne : c ≠ κ) (r : StepRec) (toB : Bool) : Apart κ σ (switchCycle c r toB τ) := by
  unfold switchCycle
  dsimp only
  repeat' first | with_reducible assumption | with_reducible apply apart_setThrottle | with_reducible apply apart_setSource | with_reducible apply apart_setBias | (with_reducible refine apart_withTargets ?_ _ _ (fun _ apart => ?_) ?_) | with_reducible apply apart_modCh | split

theorem apart_cyclePhaseEnd (c : Chamber) (ne : c ≠ κ) : Apart κ σ (cyclePhaseEnd c τ) := by
  unfold cyclePhaseEnd
  dsimp only
  repeat' first | with_reducible assumption | with_reducible apply apart_endOk | with_reducible apply apart_switchCycle | with_reducible apply apart_modExec | split

theorem apart_choosePressure (c : Chamber) (ne : c ≠ κ) : Apart κ σ (choosePressure c τ) := by
  unfold choosePressure
  dsimp only
  repeat' first | with_reducible assumption | with_reducible apply apart_modCh | split

theorem apart_trackMinMax (c : Chamber) (ne : c ≠ κ) : Apart κ σ (trackMinMax c τ) := by
  unfold trackMinMax
  repeat' first | with_reducible assumption | with_reducible apply apart_modExec | split

theorem apart_settleTest (c : Chamber) (ne : c ≠ κ) (e : StepCtx) : Apart κ σ (settleTest c e τ) := by
  unfold settleTest
  repeat' first | with_reducible assumption | with_reducible apply apart_settled | with_reducible apply apart_modExec | split

theorem apart_excursionTest (c : Chamber) (ne : c ≠ κ) (e : StepCtx) (target : Nat) : Apart κ σ (excursionTest c e target τ) := by
  unfold excursionTest
  repeat' first | with_reducible assumption | with_reducible apply apart_modExec | split

theorem apart_pressureConditions (c : Chamber) (ne : c ≠ κ) (e : StepCtx) : Apart κ σ (pressureConditions c e τ) := by
  unfold pressureConditions
  dsimp only
  repeat' first | with_reducible assumption | with_reducible apply apart_closeValve | with_reducible apply apart_enterSub | with_reducible apply apart_enterCrossover | with_reducible apply apart_endOk | with_reducible apply apart_settleTest | with_reducible apply apart_excursionTest | with_reducible apply apart_modCh | with_reducible apply apart_modExec | split

theorem apart_evaluatePressure (c : Chamber) (ne : c ≠ κ) : Apart κ σ (evaluatePressure c τ) := by
  unfold evaluatePressure
  dsimp only
  repeat' first | with_reducible assumption | with_reducible apply apart_choosePressure | with_reducible apply apart_trackMinMax | with_reducible apply apart_pressureConditions | split

theorem apart_takeArc (c : Chamber) (ne : c ≠ κ) : Apart κ σ (takeArc c τ) := by
  unfold takeArc
  dsimp only
  repeat' first | with_reducible assumption | with_reducible apply apart_faultChamber | with_reducible apply apart_modExec | split

theorem apart_afterTravel (c : Chamber) (ne : c ≠ κ) : Apart κ σ (afterTravel c τ) := by
  unfold afterTravel
  dsimp only
  repeat' first | with_reducible assumption | with_reducible apply apart_stopRoughTimer | with_reducible apply apart_openRough | with_reducible apply apart_handoverCheck | with_reducible apply apart_crossoverOn | with_reducible apply apart_ventIsolateOn | split

end Sys2Proof.Machine
end

