-- ==== Sys2Proof/Laws/Quiet.lean ====
section
/-! SUPPORT. What the chamber operations leave of the lines and of the poll table, said once: Quiet s t. Only the GAT's own
messages and requests move a line, and only the Instrument Link a poll entry's schedule and state. -/

namespace Sys2Proof.Machine

/-- Every line's state and totals, and every poll entry's schedule and instrument state, are as they were, and so are the
frame list and the moment the frame began. -/
def Quiet (s t : State) : Prop :=
  t.gat.lines = s.gat.lines ∧ t.ilc.poll = s.ilc.poll ∧ t.ilc.frameRest = s.ilc.frameRest ∧ t.ilc.frameAt = s.ilc.frameAt

theorem Quiet.refl (s : State) : Quiet s s := ⟨rfl, rfl, rfl, rfl⟩

theorem quiet_foldl {σ τ : State} {α : Type} {f : State → α → State} (xs : List α)
    (hf : ∀ u a, Quiet σ u → Quiet σ (f u a)) (quiet : Quiet σ τ) : Quiet σ (xs.foldl f τ) := by
  induction xs generalizing τ with
  | nil => exact quiet
  | cons a rest ih => exact ih (hf τ a quiet)

section
variable {σ τ : State} (quiet : Quiet σ τ)
include quiet

theorem quiet_modCh {c : Chamber} {f : Csq → Csq} : Quiet σ (τ.modCh c f) := quiet
theorem quiet_modExec {c : Chamber} {f : StepCtx → StepCtx} : Quiet σ (τ.modExec c f) := quiet
theorem quiet_modChan {c : Chamber} {k : Channel} {f : ChanCtx → ChanCtx} : Quiet σ (τ.modChan c k f) := quiet
theorem quiet_modFla {f : Fla → Fla} : Quiet σ (τ.modFla f) := quiet
theorem quiet_modSvl {f : Svl → Svl} : Quiet σ (τ.modSvl f) := quiet

theorem quiet_modGat {f : Gat → Gat} (hf : ∀ g : Gat, (f g).lines = g.lines) : Quiet σ (τ.modGat f) :=
  ⟨(hf _).trans quiet.1, quiet.2⟩

theorem quiet_modIlc {f : Ilc → Ilc}
    (hf : ∀ i : Ilc, (f i).poll = i.poll ∧ (f i).frameRest = i.frameRest ∧ (f i).frameAt = i.frameAt) : Quiet σ (τ.modIlc f) :=
  ⟨quiet.1, (hf _).1.trans quiet.2.1, (hf _).2.1.trans quiet.2.2.1, (hf _).2.2.trans quiet.2.2.2⟩

theorem quiet_post (e : Event) : Quiet σ (post e τ) := by
  unfold post
  repeat' first | with_reducible assumption | with_reducible apply quiet_modSvl | split

end

/-! # The shared operations, in the order in which they are defined -/

section
variable {σ τ : State} (quiet : Quiet σ τ)
include quiet

/-! ## Ops.lean -/

theorem quiet_postChstate (c : Chamber) : Quiet σ (postChstate c τ) := by
  unfold postChstate
  repeat' first | with_reducible assumption | with_reducible apply quiet_post

theorem quiet_postForeline : Quiet σ (postForeline τ) := by
  unfold postForeline
  repeat' first | with_reducible assumption | with_reducible apply quiet_post

theorem quiet_closeValve (c : Chamber) (v : ChamberValve) : Quiet σ (closeValve c v τ) := by
  unfold closeValve
  repeat' first | with_reducible assumption | with_reducible apply quiet_modCh

theorem quiet_closeRough (c : Chamber) : Quiet σ (closeRough c τ) := by
  unfold closeRough
  repeat' first | with_reducible assumption | with_reducible apply quiet_closeValve

theorem quiet_driveOpen (c : Chamber) (v : ChamberValve) : Quiet σ (driveOpen c v τ) := by
  unfold driveOpen
  repeat' first | with_reducible assumption | with_reducible apply quiet_modCh

theorem quiet_openGate (c : Chamber) : Quiet σ (openGate c τ) := by
  unfold openGate
  repeat' first | with_reducible assumption | with_reducible apply quiet_driveOpen | split

theorem quiet_openVent (c : Chamber) : Quiet σ (openVent c τ) := by
  unfold openVent
  repeat' first | with_reducible assumption | with_reducible apply quiet_driveOpen | split

theorem quiet_startRoughTimer (c : Chamber) : Quiet σ (startRoughTimer c τ) := by
  unfold startRoughTimer
  repeat' first | with_reducible assumption | with_reducible apply quiet_modExec

theorem quiet_stopRoughTimer (c : Chamber) : Quiet σ (stopRoughTimer c τ) := by
  unfold stopRoughTimer
  repeat' first | with_reducible assumption | with_reducible apply quiet_modExec

theorem quiet_openRough (c : Chamber) : Quiet σ (openRough c τ) := by
  unfold openRough
  dsimp only
  repeat' first | with_reducible assumption | with_reducible apply quiet_driveOpen | with_reducible apply quiet_startRoughTimer | split

theorem quiet_enterPhase (c : Chamber) (p : Phase) : Quiet σ (enterPhase c p τ) := by
  unfold enterPhase
  repeat' first | with_reducible assumption | with_reducible apply quiet_postChstate | with_reducible apply quiet_modCh

theorem quiet_startMain (c : Chamber) : Quiet σ (startMain c τ) := by
  unfold startMain
  repeat' first | with_reducible assumption | with_reducible apply quiet_modExec

theorem quiet_urgentMark (c : Chamber) (r : Role) : Quiet σ (urgentMark c r τ) := by
  unfold urgentMark
  repeat' first | with_reducible assumption | with_reducible apply quiet_modIlc | (intro _; rfl) | exact fun _ => ⟨rfl, rfl, rfl⟩ | split

theorem quiet_addResidue (c : Chamber) (g : Option GasClass) : Quiet σ (addResidue c g τ) := by
  unfold addResidue
  repeat' first | with_reducible assumption | with_reducible apply quiet_modCh | split

theorem quiet_setTarget (c : Chamber) (k : Channel) (v : Nat) : Quiet σ (setTarget c k v τ) := by
  unfold setTarget
  dsimp only
  repeat' first | with_reducible assumption | with_reducible apply quiet_urgentMark | with_reducible apply quiet_addResidue | with_reducible apply quiet_modChan | split

theorem quiet_setTargets (c : Chamber) (want : Channel → Nat) : Quiet σ (setTargets c want τ) := by
  unfold setTargets
  repeat' first | with_reducible assumption | with_reducible apply quiet_setTarget | (with_reducible refine quiet_foldl _ (fun _ _ quiet => ?_) ?_)

theorem quiet_zeroTargets (c : Chamber) : Quiet σ (zeroTargets c τ) := by
  unfold zeroTargets
  repeat' first | with_reducible assumption | with_reducible apply quiet_setTargets

theorem quiet_zeroCurrents (c : Chamber) : Quiet σ (zeroCurrents c τ) := by
  unfold zeroCurrents
  repeat' first | with_reducible assumption | with_reducible apply quiet_modChan | (with_reducible refine quiet_foldl _ (fun _ _ quiet => ?_) ?_)

theorem quiet_clearDeviations (c : Chamber) : Quiet σ (clearDeviations c τ) := by
  unfold clearDeviations
  repeat' first | with_reducible assumption | with_reducible apply quiet_modChan | (with_reducible refine quiet_foldl _ (fun _ _ quiet => ?_) ?_)

theorem quiet_setThrottle (c : Chamber) (t : Throttle) : Quiet σ (setThrottle c t τ) := by
  unfold setThrottle
  repeat' first | with_reducible assumption | with_reducible apply quiet_urgentMark | with_reducible apply quiet_modCh | split

theorem quiet_setSource (c : Chamber) (w : Nat) : Quiet σ (setSource c w τ) := by
  unfold setSource
  repeat' first | with_reducible assumption | with_reducible apply quiet_urgentMark | with_reducible apply quiet_modCh | split

theorem quiet_setBias (c : Chamber) (w : Nat) : Quiet σ (setBias c w τ) := by
  unfold setBias
  repeat' first | with_reducible assumption | with_reducible apply quiet_urgentMark | with_reducible apply quiet_modCh | split

theorem quiet_stopRf (c : Chamber) : Quiet σ (stopRf c τ) := by
  unfold stopRf
  repeat' first | with_reducible assumption | with_reducible apply quiet_setSource | with_reducible apply quiet_setBias | with_reducible apply quiet_modCh

theorem quiet_leaveQueue (c : Chamber) : Quiet σ (leaveQueue c τ) := by
  unfold leaveQueue
  repeat' first | with_reducible assumption | with_reducible apply quiet_modCh | with_reducible apply quiet_modGat | (intro _; rfl)

theorem quiet_oweService : Quiet σ (oweService τ) := by
  unfold oweService
  repeat' first | with_reducible assumption | with_reducible apply quiet_modGat | (intro _; rfl)

theorem quiet_releaseHoldings (c : Chamber) : Quiet σ (releaseHoldings c τ) := by
  unfold releaseHoldings
  dsimp only
  repeat' first | with_reducible assumption | with_reducible apply quiet_leaveQueue | with_reducible apply quiet_oweService | with_reducible apply quiet_modCh | split

theorem quiet_fileReport (c : Chamber) (r : Report) : Quiet σ (fileReport c r τ) := by
  unfold fileReport
  repeat' first | with_reducible assumption | with_reducible apply quiet_modCh | split

/-! ## Foreline.lean -/

theorem quiet_modPump (l : Line) (f : Valve → Valve) : Quiet σ (modPump l f τ) := by
  unfold modPump
  repeat' first | with_reducible assumption | with_reducible apply quiet_modFla

theorem quiet_closePump (l : Line) : Quiet σ (closePump l τ) := by
  unfold closePump
  repeat' first | with_reducible assumption | with_reducible apply quiet_modPump

theorem quiet_openPump (l : Line) : Quiet σ (openPump l τ) := by
  unfold openPump
  repeat' first | with_reducible assumption | with_reducible apply quiet_modPump | split

theorem quiet_sendGat (m : PumpMsg) (l : Line) : Quiet σ (sendGat m l τ) := by
  unfold sendGat
  repeat' first | with_reducible assumption | with_reducible apply quiet_modFla

theorem quiet_stopProgress : Quiet σ (stopProgress τ) := by
  unfold stopProgress
  repeat' first | with_reducible assumption | with_reducible apply quiet_modFla | split

theorem quiet_enterSub (c : Chamber) (p : SubPhase) : Quiet σ (enterSub c p τ) := by
  unfold enterSub
  repeat' first | with_reducible assumption | with_reducible apply quiet_openRough | with_reducible apply quiet_enterPhase

theorem quiet_takeGrant (c : Chamber) : Quiet σ (takeGrant c τ) := by
  unfold takeGrant
  repeat' first | with_reducible assumption | with_reducible apply quiet_enterPhase | with_reducible apply quiet_enterSub | with_reducible apply quiet_modExec | split

theorem quiet_takePause (c : Chamber) : Quiet σ (takePause c τ) := by
  unfold takePause
  repeat' first | with_reducible assumption | with_reducible apply quiet_closeRough | with_reducible apply quiet_enterPhase | with_reducible apply quiet_modExec | split

theorem quiet_takeResume (c : Chamber) : Quiet σ (takeResume c τ) := by
  unfold takeResume
  repeat' first | with_reducible assumption | with_reducible apply quiet_enterSub | split

theorem quiet_toIdle : Quiet σ (toIdle τ) := by
  unfold toIdle
  repeat' first | with_reducible assumption | with_reducible apply quiet_postForeline | with_reducible apply quiet_modFla | split

theorem quiet_grantChamber (c : Chamber) : Quiet σ (grantChamber c τ) := by
  unfold grantChamber
  repeat' first | with_reducible assumption | with_reducible apply quiet_postForeline | with_reducible apply quiet_takeGrant | with_reducible apply quiet_modFla

theorem quiet_grantLines (xs : List PumpEntry) : Quiet σ (grantLines xs τ) := by
  induction xs generalizing τ with
  | nil => exact quiet_toIdle quiet
  | cons p rest ih =>
    unfold grantLines
    dsimp only
    repeat' first | with_reducible assumption | apply ih | with_reducible apply quiet_openPump | with_reducible apply quiet_sendGat | with_reducible apply quiet_postForeline | with_reducible apply quiet_modFla | split

theorem quiet_grantDecision : Quiet σ (grantDecision τ) := by
  unfold grantDecision
  repeat' first | with_reducible assumption | with_reducible apply quiet_toIdle | with_reducible apply quiet_grantChamber | with_reducible apply quiet_grantLines | split

theorem quiet_vacate : Quiet σ (vacate τ) := by
  unfold vacate
  dsimp only
  repeat' first | with_reducible assumption | with_reducible apply quiet_postForeline | with_reducible apply quiet_grantDecision | with_reducible apply quiet_modFla | split

theorem quiet_handoverCheck : Quiet σ (handoverCheck τ) := by
  unfold handoverCheck
  repeat' first | with_reducible assumption | with_reducible apply quiet_grantDecision | split

theorem quiet_blockCleared : Quiet σ (blockCleared τ) := by
  unfold blockCleared
  repeat' first | with_reducible assumption | with_reducible apply quiet_grantDecision | split

theorem quiet_withdraw (c : Chamber) : Quiet σ (withdraw c τ) := by
  unfold withdraw
  repeat' first | with_reducible assumption | with_reducible apply quiet_modFla

theorem quiet_releaseForeline (c : Chamber) : Quiet σ (releaseForeline c τ) := by
  unfold releaseForeline
  repeat' first | with_reducible assumption | with_reducible apply quiet_vacate | split

theorem quiet_leaveForeline (c : Chamber) : Quiet σ (leaveForeline c τ) := by
  unfold leaveForeline
  repeat' first | with_reducible assumption | with_reducible apply quiet_withdraw | with_reducible apply quiet_releaseForeline

theorem quiet_yieldPumpout : Quiet σ (yieldPumpout τ) := by
  unfold yieldPumpout
  repeat' first | with_reducible assumption | with_reducible apply quiet_closePump | with_reducible apply quiet_sendGat | with_reducible apply quiet_stopProgress | with_reducible apply quiet_vacate | split

theorem quiet_takeListing (l : Line) : Quiet σ (takeListing l τ) := by
  unfold takeListing
  repeat' first | with_reducible assumption | with_reducible apply quiet_blockCleared | with_reducible apply quiet_modFla | split

theorem quiet_dropEntry (l : Line) : Quiet σ (dropEntry l τ) := by
  unfold dropEntry
  repeat' first | with_reducible assumption | with_reducible apply quiet_modFla

theorem quiet_takeRemoval (l : Line) : Quiet σ (takeRemoval l τ) := by
  unfold takeRemoval
  repeat' first | with_reducible assumption | with_reducible apply quiet_closePump | with_reducible apply quiet_vacate | with_reducible apply quiet_dropEntry | split

theorem quiet_completePumpout (l : Line) : Quiet σ (completePumpout l τ) := by
  unfold completePumpout
  repeat' first | with_reducible assumption | with_reducible apply quiet_closePump | with_reducible apply quiet_sendGat | with_reducible apply quiet_vacate | with_reducible apply quiet_dropEntry

theorem quiet_requestForeline (c : Chamber) : Quiet σ (requestForeline c τ) := by
  unfold requestForeline
  dsimp only
  repeat' first | with_reducible assumption | with_reducible apply quiet_stopRoughTimer | with_reducible apply quiet_postChstate | with_reducible apply quiet_grantDecision | with_reducible apply quiet_yieldPumpout | with_reducible apply quiet_modCh | with_reducible apply quiet_modFla | split

theorem quiet_setPause (b : Bool) : Quiet σ (setPause b τ) := by
  unfold setPause
  dsimp only
  repeat' first | with_reducible assumption | with_reducible apply quiet_postForeline | with_reducible apply quiet_closePump | with_reducible apply quiet_openPump | with_reducible apply quiet_stopProgress | with_reducible apply quiet_takePause | with_reducible apply quiet_takeResume | with_reducible apply quiet_modFla | split

theorem quiet_takeForelineReading (p : Nat) : Quiet σ (takeForelineReading p τ) := by
  unfold takeForelineReading
  repeat' first | with_reducible assumption | with_reducible apply quiet_setPause | with_reducible apply quiet_modFla

theorem quiet_forelineUnknown : Quiet σ (forelineUnknown τ) := by
  unfold forelineUnknown
  repeat' first | with_reducible assumption | with_reducible apply quiet_setPause | with_reducible apply quiet_modFla

/-! ## Chamber.lean -/

theorem quiet_endStep (c : Chamber) (res : Result) : Quiet σ (endStep c res τ) := by
  unfold endStep
  dsimp only
  repeat' first | with_reducible assumption | with_reducible apply quiet_post | with_reducible apply quiet_stopRf | with_reducible apply quiet_fileReport | with_reducible apply quiet_modCh | split

theorem quiet_flushWaiting (c : Chamber) : Quiet σ (flushWaiting c τ) := by
  unfold flushWaiting
  dsimp only
  repeat' first | with_reducible assumption | with_reducible apply quiet_post | with_reducible apply quiet_fileReport | with_reducible apply quiet_modCh | split

theorem quiet_faultChamber (c : Chamber) (cause : Result) : Quiet σ (faultChamber c cause τ) := by
  unfold faultChamber
  dsimp only
  repeat' first | with_reducible assumption | with_reducible apply quiet_post | with_reducible apply quiet_postChstate | with_reducible apply quiet_closeValve | with_reducible apply quiet_closeRough | with_reducible apply quiet_zeroTargets | with_reducible apply quiet_zeroCurrents | with_reducible apply quiet_clearDeviations | with_reducible apply quiet_setThrottle | with_reducible apply quiet_stopRf | with_reducible apply quiet_releaseHoldings | with_reducible apply quiet_leaveForeline | with_reducible apply quiet_endStep | with_reducible apply quiet_flushWaiting | with_reducible apply quiet_modCh | split

theorem quiet_enterReady (c : Chamber) : Quiet σ (enterReady c τ) := by
  unfold enterReady
  dsimp only
  repeat' first | with_reducible assumption | with_reducible apply quiet_postChstate | with_reducible apply quiet_closeRough | with_reducible apply quiet_zeroTargets | with_reducible apply quiet_clearDeviations | with_reducible apply quiet_setThrottle | with_reducible apply quiet_stopRf | with_reducible apply quiet_releaseHoldings | with_reducible apply quiet_leaveForeline | with_reducible apply quiet_modCh

theorem quiet_enterHeld (c : Chamber) : Quiet σ (enterHeld c τ) := by
  unfold enterHeld
  repeat' first | with_reducible assumption | with_reducible apply quiet_postChstate | with_reducible apply quiet_modCh

theorem quiet_abortValves (c : Chamber) : Quiet σ (abortValves c τ) := by
  unfold abortValves
  repeat' first | with_reducible assumption | with_reducible apply quiet_closeValve | split

theorem quiet_abortStep (c : Chamber) : Quiet σ (abortStep c τ) := by
  unfold abortStep
  dsimp only
  repeat' first | with_reducible assumption | with_reducible apply quiet_endStep | with_reducible apply quiet_flushWaiting | with_reducible apply quiet_enterReady | with_reducible apply quiet_abortValves | with_reducible apply quiet_modCh

/-! ## Gas.lean -/

theorem quiet_withTargets (c : Chamber) (want : Channel → Nat) {g : State → State}
    (hg : ∀ u, Quiet σ u → Quiet σ (g u)) : Quiet σ (withTargets c want g τ) := by
  unfold withTargets
  split
  · exact quiet_faultChamber quiet _ _
  · exact hg _ (quiet_setTargets quiet _ _)

theorem quiet_enterPurge (c : Chamber) (r : StepRec) : Quiet σ (enterPurge c r τ) := by
  unfold enterPurge
  dsimp only
  repeat' first | with_reducible assumption | with_reducible apply quiet_enterPhase | with_reducible apply quiet_setThrottle | (with_reducible refine quiet_withTargets ?_ _ _ (fun _ quiet => ?_)) | with_reducible apply quiet_modExec | split

theorem quiet_enterWork (c : Chamber) (r : StepRec) : Quiet σ (enterWork c r τ) := by
  unfold enterWork
  dsimp only
  repeat' first | with_reducible assumption | with_reducible apply quiet_enterPhase | with_reducible apply quiet_startMain | with_reducible apply quiet_setThrottle | (with_reducible refine quiet_withTargets ?_ _ _ (fun _ quiet => ?_)) | with_reducible apply quiet_modExec | split

theorem quiet_admit (c : Chamber) (rq : Request) : Quiet σ (admitChamber c rq τ) := by
  unfold admitChamber
  dsimp only
  repeat' first | with_reducible assumption | with_reducible apply quiet_leaveQueue | with_reducible apply quiet_oweService | with_reducible apply quiet_enterPurge | with_reducible apply quiet_enterWork | with_reducible apply quiet_modCh | with_reducible apply quiet_modExec | split

theorem quiet_enterAdmit (c : Chamber) (r : StepRec) : Quiet σ (enterAdmit c r τ) := by
  unfold enterAdmit
  dsimp only
  repeat' first | with_reducible assumption | with_reducible apply quiet_enterPhase | with_reducible apply quiet_faultChamber | with_reducible apply quiet_admit | with_reducible apply quiet_modCh | with_reducible apply quiet_modExec | with_reducible apply quiet_modGat | (intro _; rfl) | split

theorem quiet_tryAdmit (c : Chamber) : Quiet σ (tryAdmit c τ).1 := by
  unfold tryAdmit
  repeat' first | with_reducible assumption | with_reducible apply quiet_admit | split

theorem quiet_servicePass (xs : List Chamber) : Quiet σ (servicePass xs τ).1 := by
  induction xs generalizing τ with
  | nil => exact quiet
  | cons c rest ih => exact ih (quiet_tryAdmit quiet c)

theorem quiet_serviceRuns (n : Nat) : Quiet σ (serviceRuns n τ) := by
  induction n generalizing τ with
  | zero => exact quiet
  | succ n ih =>
    unfold serviceRuns
    dsimp only
    split
    · exact ih (quiet_servicePass quiet _)
    · exact quiet_servicePass quiet _

theorem quiet_runService : Quiet σ (runService τ) := by
  unfold runService
  dsimp only
  repeat' first | with_reducible assumption | with_reducible apply quiet_serviceRuns | with_reducible apply quiet_modGat | (intro _; rfl) | split

theorem quiet_sendFla (m : ListMsg) (l : Line) : Quiet σ (sendFla m l τ) := by
  unfold sendFla
  repeat' first | with_reducible assumption | with_reducible apply quiet_modGat | (intro _; rfl)

/-! ## Process.lean -/

theorem quiet_enterHighVac (c : Chamber) : Quiet σ (enterHighVac c τ) := by
  unfold enterHighVac
  dsimp only
  repeat' first | with_reducible assumption | with_reducible apply quiet_enterPhase | with_reducible apply quiet_startMain | with_reducible apply quiet_modExec

theorem quiet_crossoverOn (c : Chamber) : Quiet σ (crossoverOn c τ) := by
  unfold crossoverOn
  repeat' first | with_reducible assumption | with_reducible apply quiet_openGate | with_reducible apply quiet_faultChamber | with_reducible apply quiet_enterHighVac | split

theorem quiet_enterCrossover (c : Chamber) : Quiet σ (enterCrossover c τ) := by
  unfold enterCrossover
  dsimp only
  repeat' first | with_reducible assumption | with_reducible apply quiet_closeRough | with_reducible apply quiet_stopRoughTimer | with_reducible apply quiet_enterPhase | with_reducible apply quiet_leaveForeline | with_reducible apply quiet_crossoverOn

theorem quiet_startPumpdown (c : Chamber) : Quiet σ (startPumpdown c τ) := by
  unfold startPumpdown
  dsimp only
  repeat' first | with_reducible assumption | with_reducible apply quiet_closeValve | with_reducible apply quiet_zeroTargets | with_reducible apply quiet_setThrottle | with_reducible apply quiet_releaseHoldings | with_reducible apply quiet_requestForeline | with_reducible apply quiet_enterHighVac | with_reducible apply quiet_enterCrossover | with_reducible apply quiet_modCh | split

theorem quiet_enterVenting (c : Chamber) : Quiet σ (enterVenting c τ) := by
  unfold enterVenting
  dsimp only
  repeat' first | with_reducible assumption | with_reducible apply quiet_enterPhase | with_reducible apply quiet_startMain | with_reducible apply quiet_modCh | with_reducible apply quiet_modExec

theorem quiet_ventIsolateOn (c : Chamber) : Quiet σ (ventIsolateOn c τ) := by
  unfold ventIsolateOn
  repeat' first | with_reducible assumption | with_reducible apply quiet_openVent | with_reducible apply quiet_enterVenting | split

theorem quiet_startVent (c : Chamber) : Quiet σ (startVent c τ) := by
  unfold startVent
  dsimp only
  repeat' first | with_reducible assumption | with_reducible apply quiet_closeValve | with_reducible apply quiet_enterPhase | with_reducible apply quiet_zeroTargets | with_reducible apply quiet_setThrottle | with_reducible apply quiet_releaseHoldings | with_reducible apply quiet_ventIsolateOn | split

theorem quiet_startStep (c : Chamber) : Quiet σ (startStep c τ) := by
  unfold startStep
  dsimp only
  repeat' first | with_reducible assumption | with_reducible apply quiet_post | with_reducible apply quiet_faultChamber | with_reducible apply quiet_enterAdmit | with_reducible apply quiet_startPumpdown | with_reducible apply quiet_startVent | with_reducible apply quiet_modCh | split

theorem quiet_handover (c : Chamber) (k : Kind) : Quiet σ (handover c k τ) := by
  unfold handover
  repeat' first | with_reducible assumption | with_reducible apply quiet_enterReady | with_reducible apply quiet_enterHeld | with_reducible apply quiet_startStep | split

theorem quiet_endOk (c : Chamber) : Quiet σ (endOk c τ) := by
  unfold endOk
  repeat' first | with_reducible assumption | with_reducible apply quiet_endStep | with_reducible apply quiet_handover | split

theorem quiet_enterSteady (c : Chamber) (r : StepRec) : Quiet σ (enterSteady c r τ) := by
  unfold enterSteady
  repeat' first | with_reducible assumption | with_reducible apply quiet_enterPhase | with_reducible apply quiet_startMain | with_reducible apply quiet_modExec

theorem quiet_markBeforeStrike (c : Chamber) : Quiet σ (markBeforeStrike c τ) := by
  unfold markBeforeStrike
  repeat' first | with_reducible assumption | with_reducible apply quiet_modIlc | (intro _; rfl) | exact fun _ => ⟨rfl, rfl, rfl⟩ | split

theorem quiet_startRf (c : Chamber) (r : StepRec) : Quiet σ (startRf c r τ) := by
  unfold startRf
  repeat' first | with_reducible assumption | with_reducible apply quiet_setSource | with_reducible apply quiet_setBias | with_reducible apply quiet_modCh

theorem quiet_enterStrike (c : Chamber) (r : StepRec) : Quiet σ (enterStrike c r τ) := by
  unfold enterStrike
  dsimp only
  repeat' first | with_reducible assumption | with_reducible apply quiet_enterPhase | with_reducible apply quiet_faultChamber | with_reducible apply quiet_markBeforeStrike | with_reducible apply quiet_startRf | with_reducible apply quiet_modExec | split

theorem quiet_settled (c : Chamber) : Quiet σ (settled c τ) := by
  unfold settled
  dsimp only
  repeat' first | with_reducible assumption | with_reducible apply quiet_enterSteady | with_reducible apply quiet_enterStrike | with_reducible apply quiet_modExec | split

theorem quiet_enterOveretch (c : Chamber) (o : Nat) : Quiet σ (enterOveretch c o τ) := by
  unfold enterOveretch
  repeat' first | with_reducible assumption | with_reducible apply quiet_enterPhase | with_reducible apply quiet_modExec

theorem quiet_endpointReached (c : Chamber) : Quiet σ (endpointReached c τ) := by
  unfold endpointReached
  dsimp only
  repeat' first | with_reducible assumption | with_reducible apply quiet_endOk | with_reducible apply quiet_enterOveretch | with_reducible apply quiet_modExec | split

theorem quiet_maskExpired (c : Chamber) : Quiet σ (maskExpired c τ) := by
  unfold maskExpired
  dsimp only
  repeat' first | with_reducible assumption | with_reducible apply quiet_endpointReached | with_reducible apply quiet_modExec | split

theorem quiet_enterEtch (c : Chamber) (r : StepRec) : Quiet σ (enterEtch c r τ) := by
  unfold enterEtch
  dsimp only
  repeat' first | with_reducible assumption | with_reducible apply quiet_enterPhase | with_reducible apply quiet_startMain | with_reducible apply quiet_maskExpired | with_reducible apply quiet_modExec | split

theorem quiet_enterCycling (c : Chamber) (r : StepRec) : Quiet σ (enterCycling c r τ) := by
  unfold enterCycling
  dsimp only
  repeat' first | with_reducible assumption | with_reducible apply quiet_enterPhase | with_reducible apply quiet_startMain | with_reducible apply quiet_modExec

theorem quiet_strikeConfirmed (c : Chamber) : Quiet σ (strikeConfirmed c τ) := by
  unfold strikeConfirmed
  dsimp only
  repeat' first | with_reducible assumption | with_reducible apply quiet_enterEtch | with_reducible apply quiet_enterCycling | with_reducible apply quiet_modExec | split

theorem quiet_switchCycle (c : Chamber) (r : StepRec) (toB : Bool) : Quiet σ (switchCycle c r toB τ) := by
  unfold switchCycle
  dsimp only
  repeat' first | with_reducible assumption | with_reducible apply quiet_setThrottle | with_reducible apply quiet_setSource | with_reducible apply quiet_setBias | (with_reducible refine quiet_withTargets ?_ _ _ (fun _ quiet => ?_)) | with_reducible apply quiet_modCh | split

theorem quiet_cyclePhaseEnd (c : Chamber) : Quiet σ (cyclePhaseEnd c τ) := by
  unfold cyclePhaseEnd
  dsimp only
  repeat' first | with_reducible assumption | with_reducible apply quiet_endOk | with_reducible apply quiet_switchCycle | with_reducible apply quiet_modExec | split

theorem quiet_choosePressure (c : Chamber) : Quiet σ (choosePressure c τ) := by
  unfold choosePressure
  dsimp only
  repeat' first | with_reducible assumption | with_reducible apply quiet_modCh | split

theorem quiet_trackMinMax (c : Chamber) : Quiet σ (trackMinMax c τ) := by
  unfold trackMinMax
  repeat' first | with_reducible assumption | with_reducible apply quiet_modExec | split

theorem quiet_settleTest (c : Chamber) (e : StepCtx) : Quiet σ (settleTest c e τ) := by
  unfold settleTest
  repeat' first | with_reducible assumption | with_reducible apply quiet_settled | with_reducible apply quiet_modExec | split

theorem quiet_excursionTest (c : Chamber) (e : StepCtx) (target : Nat) : Quiet σ (excursionTest c e target τ) := by
  unfold excursionTest
  repeat' first | with_reducible assumption | with_reducible apply quiet_modExec | split

theorem quiet_pressureConditions (c : Chamber) (e : StepCtx) : Quiet σ (pressureConditions c e τ) := by
  unfold pressureConditions
  dsimp only
  repeat' first | with_reducible assumption | with_reducible apply quiet_closeValve | with_reducible apply quiet_enterSub | with_reducible apply quiet_enterCrossover | with_reducible apply quiet_endOk | with_reducible apply quiet_settleTest | with_reducible apply quiet_excursionTest | with_reducible apply quiet_modCh | with_reducible apply quiet_modExec | split

theorem quiet_evaluatePressure (c : Chamber) : Quiet σ (evaluatePressure c τ) := by
  unfold evaluatePressure
  dsimp only
  repeat' first | with_reducible assumption | with_reducible apply quiet_choosePressure | with_reducible apply quiet_trackMinMax | with_reducible apply quiet_pressureConditions | split

theorem quiet_takeArc (c : Chamber) : Quiet σ (takeArc c τ) := by
  unfold takeArc
  dsimp only
  repeat' first | with_reducible assumption | with_reducible apply quiet_faultChamber | with_reducible apply quiet_modExec | split

theorem quiet_afterTravel (c : Chamber) : Quiet σ (afterTravel c τ) := by
  unfold afterTravel
  dsimp only
  repeat' first | with_reducible assumption | with_reducible apply quiet_stopRoughTimer | with_reducible apply quiet_openRough | with_reducible apply quiet_handoverCheck | with_reducible apply quiet_crossoverOn | with_reducible apply quiet_ventIsolateOn | split

end

end Sys2Proof.Machine
end

