-- ==== Sys2Proof/Laws/Outcomes.lean ====
section
/-! SUPPORT. What a fault and an entry into READY leave of their chamber, said once: faultChamber_faulted, enterReady_ready
and the lemmas that lead to them. -/

namespace Sys2Proof.Machine

/-! ## Events and urgent marks leave the blocks alone -/

section
variable (e : Event) (s : State)

@[simp] theorem post_csq : (post e s).csq = s.csq := by unfold post; split <;> [rfl; (split <;> rfl)]
@[simp] theorem post_fcu : (post e s).fcu = s.fcu := by unfold post; split <;> [rfl; (split <;> rfl)]
@[simp] theorem post_gat : (post e s).gat = s.gat := by unfold post; split <;> [rfl; (split <;> rfl)]
@[simp] theorem post_fla : (post e s).fla = s.fla := by unfold post; split <;> [rfl; (split <;> rfl)]
@[simp] theorem post_ilc : (post e s).ilc = s.ilc := by unfold post; split <;> [rfl; (split <;> rfl)]
@[simp] theorem post_iiu : (post e s).iiu = s.iiu := by unfold post; split <;> [rfl; (split <;> rfl)]
@[simp] theorem post_cfg : (post e s).cfg = s.cfg := by unfold post; split <;> [rfl; (split <;> rfl)]
@[simp] theorem post_now : (post e s).now = s.now := by unfold post; split <;> [rfl; (split <;> rfl)]
@[simp] theorem post_pending : (post e s).pending = s.pending := by unfold post; split <;> [rfl; (split <;> rfl)]
@[simp] theorem post_tx : (post e s).svl.tx = s.svl.tx := by unfold post; split <;> [rfl; (split <;> rfl)]
@[simp] theorem post_reply : (post e s).svl.reply = s.svl.reply := by unfold post; split <;> [rfl; (split <;> rfl)]
@[simp] theorem post_buffer : (post e s).svl.buffer = s.svl.buffer := by unfold post; split <;> [rfl; (split <;> rfl)]
@[simp] theorem post_ch (c : Chamber) : (post e s).ch c = s.ch c := by simp [State.ch]
@[simp] theorem post_chan (c : Chamber) (k : Channel) : (post e s).chan c k = s.chan c k := by simp [State.chan]
@[simp] theorem post_ln (l : Line) : (post e s).ln l = s.ln l := by simp [State.ln]
@[simp] theorem post_inp (i : Input) : (post e s).inp i = s.inp i := by simp [State.inp]
@[simp] theorem post_pollDyn (x : EntryIx) : (post e s).pollDyn x = s.pollDyn x := by simp [State.pollDyn]

end

section
variable (c : Chamber) (r : Role) (s : State)

@[simp] theorem urgentMark_csq : (urgentMark c r s).csq = s.csq := by
  unfold urgentMark; repeat' split
  all_goals rfl
@[simp] theorem urgentMark_fcu : (urgentMark c r s).fcu = s.fcu := by
  unfold urgentMark; repeat' split
  all_goals rfl
@[simp] theorem urgentMark_gat : (urgentMark c r s).gat = s.gat := by
  unfold urgentMark; repeat' split
  all_goals rfl
@[simp] theorem urgentMark_fla : (urgentMark c r s).fla = s.fla := by
  unfold urgentMark; repeat' split
  all_goals rfl
@[simp] theorem urgentMark_cfg : (urgentMark c r s).cfg = s.cfg := by
  unfold urgentMark; repeat' split
  all_goals rfl
@[simp] theorem urgentMark_ch (d : Chamber) : (urgentMark c r s).ch d = s.ch d := by simp [State.ch]
@[simp] theorem urgentMark_chan (d : Chamber) (k : Channel) : (urgentMark c r s).chan d k = s.chan d k := by simp [State.chan]

end

/-! ## Flow targets (R100) -/

/-- A class joining the residue moves no channel. -/
@[simp] theorem addResidue_fcu (c : Chamber) (g : Option GasClass) (s : State) : (addResidue c g s).fcu = s.fcu := by
  unfold addResidue; split <;> rfl

@[simp] theorem addResidue_chan (c : Chamber) (g : Option GasClass) (s : State) (d : Chamber) (k : Channel) :
    (addResidue c g s).chan d k = s.chan d k := by simp [State.chan]

/-- Setting one target: it takes the value, the chamber's other targets stay. -/
theorem setTarget_target (c : Chamber) (k : Channel) (v : Nat) (s : State) (j : Channel) :
    ((setTarget c k v s).chan c j).target = if k = j then v else (s.chan c j).target := by
  unfold setTarget
  split
  · rename_i h
    by_cases e : k = j
    · subst e; simpa using h
    · simp [e]
  · dsimp only
    rw [urgentMark_chan]
    split
    · rw [addResidue_chan, State.modChan_chan]
      by_cases e : k = j <;> simp only [e, and_self, and_false, if_true, if_false]
    · rw [State.modChan_chan]
      by_cases e : k = j <;> simp only [e, and_self, and_false, if_true, if_false]

theorem foldl_setTarget_target (c : Chamber) (want : Channel → Nat) (xs : List Channel) (s : State) (j : Channel) :
    ((xs.foldl (fun s k => setTarget c k (want k) s) s).chan c j).target
      = if j ∈ xs then want j else (s.chan c j).target := by
  induction xs generalizing s with
  | nil => simp
  | cons k rest ih =>
    simp only [List.foldl_cons, ih, setTarget_target, List.mem_cons]
    by_cases e : k = j
    · subst e; simp
    · have e' : j ≠ k := fun x => e x.symm
      simp [e, e']

/-- Setting every target of a chamber gives each channel what is wanted of it. -/
theorem setTargets_target (c : Chamber) (want : Channel → Nat) (s : State) (k : Channel) :
    ((setTargets c want s).chan c k).target = want k := by
  simp [setTargets, foldl_setTarget_target]

/-! ## The chamber part of an operation -/

/-- An operation that leaves the flow targets of a chamber alone. -/
theorem foldl_modChan_target (c : Chamber) (f : ChanCtx → ChanCtx) (hf : ∀ x, (f x).target = x.target) (xs : List Channel)
    (s : State) (d : Chamber) (j : Channel) :
    ((xs.foldl (fun s k => s.modChan c k f) s).chan d j).target = (s.chan d j).target := by
  induction xs generalizing s with
  | nil => rfl
  | cons k rest ih =>
    rw [List.foldl_cons, ih, State.modChan_chan]
    split
    · rename_i h; obtain ⟨rfl, rfl⟩ := h; exact hf _
    · rfl

theorem foldl_modChan_csq (c : Chamber) (f : ChanCtx → ChanCtx) (xs : List Channel) (s : State) :
    (xs.foldl (fun s k => s.modChan c k f) s).csq = s.csq := by
  induction xs generalizing s with
  | nil => rfl
  | cons k rest ih => rw [List.foldl_cons, ih]; rfl

@[simp] theorem zeroCurrents_target (c : Chamber) (s : State) (d : Chamber) (j : Channel) :
    ((zeroCurrents c s).chan d j).target = (s.chan d j).target := by
  unfold zeroCurrents; generalize allIx 8 = xs
  exact foldl_modChan_target c (fun x => { x with current := 0 }) (fun _ => rfl) xs s d j

@[simp] theorem clearDeviations_target (c : Chamber) (s : State) (d : Chamber) (j : Channel) :
    ((clearDeviations c s).chan d j).target = (s.chan d j).target := by
  unfold clearDeviations; generalize allIx 8 = xs
  exact foldl_modChan_target c (fun x => { x with deviation := none }) (fun _ => rfl) xs s d j

@[simp] theorem zeroCurrents_ch (c : Chamber) (s : State) (d : Chamber) : (zeroCurrents c s).ch d = s.ch d := by
  simp [zeroCurrents, State.ch, foldl_modChan_csq]

@[simp] theorem clearDeviations_ch (c : Chamber) (s : State) (d : Chamber) : (clearDeviations c s).ch d = s.ch d := by
  simp [clearDeviations, State.ch, foldl_modChan_csq]

/-- A target of 0 opens no stick valve, so it adds no residue. -/
theorem setTarget_zero_csq (c : Chamber) (k : Channel) (s : State) : (setTarget c k 0 s).csq = s.csq := by
  unfold setTarget
  split
  · rfl
  · rename_i h; simp [h]

@[simp] theorem zeroTargets_ch (c : Chamber) (s : State) (d : Chamber) : (zeroTargets c s).ch d = s.ch d := by
  have h : ∀ (xs : List Channel) (s : State), (xs.foldl (fun s k => setTarget c k 0 s) s).csq = s.csq := by
    intro xs
    induction xs with
    | nil => intro; rfl
    | cons k rest ih => intro s; rw [List.foldl_cons, ih, setTarget_zero_csq]
  simp only [zeroTargets, setTargets, State.ch]
  rw [h]

/-- Every target is 0 after zeroTargets. -/
@[simp] theorem zeroTargets_target (c : Chamber) (s : State) (k : Channel) : ((zeroTargets c s).chan c k).target = 0 :=
  setTargets_target c _ s k

/-- The throttle target is set (R112). -/
theorem setThrottle_ch (c : Chamber) (t : Throttle) (s : State) (d : Chamber) :
    (setThrottle c t s).ch d = if c = d then { s.ch c with throttle := t } else s.ch d := by
  unfold setThrottle
  split
  · rename_i h
    by_cases e : c = d
    · subst e; simp [← h]
    · simp [e]
  · simp

@[simp] theorem setThrottle_chan (c : Chamber) (t : Throttle) (s : State) (d : Chamber) (k : Channel) :
    (setThrottle c t s).chan d k = s.chan d k := by
  unfold setThrottle; split <;> simp

theorem setSource_ch (c : Chamber) (w : Nat) (s : State) (d : Chamber) :
    (setSource c w s).ch d = if c = d then { s.ch c with source := w } else s.ch d := by
  unfold setSource
  split
  · rename_i h
    by_cases e : c = d
    · subst e; simp [← h]
    · simp [e]
  · simp

@[simp] theorem setSource_chan (c : Chamber) (w : Nat) (s : State) (d : Chamber) (k : Channel) :
    (setSource c w s).chan d k = s.chan d k := by
  unfold setSource; split <;> simp

theorem setBias_ch (c : Chamber) (w : Nat) (s : State) (d : Chamber) :
    (setBias c w s).ch d = if c = d then { s.ch c with bias := w } else s.ch d := by
  unfold setBias
  split
  · rename_i h
    by_cases e : c = d
    · subst e; simp [← h]
    · simp [e]
  · simp

@[simp] theorem setBias_chan (c : Chamber) (w : Nat) (s : State) (d : Chamber) (k : Channel) :
    (setBias c w s).chan d k = s.chan d k := by
  unfold setBias; split <;> simp

/-- RF_EN off and both setpoints 0 (R7, R15). -/
theorem stopRf_ch (c : Chamber) (s : State) (d : Chamber) :
    (stopRf c s).ch d = if c = d then { s.ch c with rfEn := false, source := 0, bias := 0 } else s.ch d := by
  by_cases e : c = d <;> simp [stopRf, setBias_ch, setSource_ch, e]

@[simp] theorem stopRf_chan (c : Chamber) (s : State) (d : Chamber) (k : Channel) : (stopRf c s).chan d k = s.chan d k := by
  simp [stopRf]

/-- A close command leaves the chamber's other fields alone. -/
theorem closeValve_ch (c : Chamber) (v : ChamberValve) (s : State) (d : Chamber) :
    (closeValve c v s).ch d
      = if c = d then (s.ch c).setValve v (((s.ch c).valve v).commandClose s.now (travelOf s c v)) else s.ch d := by
  simp [closeValve]

@[simp] theorem closeValve_chan (c : Chamber) (v : ChamberValve) (s : State) (d : Chamber) (k : Channel) :
    (closeValve c v s).chan d k = s.chan d k := rfl

@[simp] theorem closeRough_chan (c : Chamber) (s : State) (d : Chamber) (k : Channel) :
    (closeRough c s).chan d k = s.chan d k := rfl

/-- The holdings are released and the chamber is in no queue (R85). -/
theorem releaseHoldings_ch (c : Chamber) (s : State) :
    (releaseHoldings c s).ch c = { s.ch c with request := none, admitTimer := none, holdings := [] } := by
  unfold releaseHoldings leaveQueue oweService
  simp only [State.modGat_ch, State.modCh_ch, if_true]
  split
  · rename_i h; simp [h]
  · simp

@[simp] theorem releaseHoldings_chan (c : Chamber) (s : State) (d : Chamber) (k : Channel) :
    (releaseHoldings c s).chan d k = s.chan d k := by
  unfold releaseHoldings leaveQueue oweService
  dsimp only
  split <;> simp

theorem releaseHoldings_queue (c : Chamber) (s : State) : c ∉ (releaseHoldings c s).gat.queue := by
  unfold releaseHoldings leaveQueue oweService
  dsimp only
  split <;> simp

/-! ## Leaving the foreline (R61) -/

/-- The decision that follows a release does not see what the FLA forgets anyway. -/
theorem vacate_out (c : Chamber) (s : State) (hq : c ∉ s.gat.queue) (hw : s.fla.waiting.look c = false) :
    (vacate s).ch c = s.ch c ∧ (∀ k, (vacate s).chan c k = s.chan c k) ∧ Out (vacate s) c := by
  have h : vacate s = vacate (s.modFla (fun a => { a with holder := none })) := rfl
  have o : Out (s.modFla (fun a => { a with holder := none })) c := ⟨hq, hw, by simp⟩
  have a := apart_vacate (Apart.refl c (s.modFla (fun a => { a with holder := none }))) o
  rw [h]
  exact ⟨a.1.1, a.1.2, a.2⟩

/-- A chamber in no queue that leaves the foreline keeps what it is, and is out. -/
theorem leaveForeline_out (c : Chamber) (s : State) (hq : c ∉ s.gat.queue) :
    (leaveForeline c s).ch c = s.ch c ∧ (∀ k, (leaveForeline c s).chan c k = s.chan c k) ∧ Out (leaveForeline c s) c := by
  unfold leaveForeline releaseForeline
  split
  · exact vacate_out c (withdraw c s) hq (by simp [withdraw])
  · rename_i h
    refine ⟨rfl, fun _ => rfl, hq, by simp [withdraw], ?_⟩
    exact fun e => h (by simpa [holdsForeline] using e)

/-! ## Ends of steps -/

/-- What every end of a step that is not OK leaves of its chamber: the residue, the readings and the pressure, the valves and
the flow part, the chamber state, phase and vacuum status. -/
structure Ended (s t : State) (c : Chamber) : Prop where
  chan : ∀ k, t.chan c k = s.chan c k
  same : SensedAs s t c
  state : (t.ch c).state = (s.ch c).state
  phase : (t.ch c).phase = (s.ch c).phase
  vac : (t.ch c).vac = (s.ch c).vac

theorem Ended.refl (s : State) (c : Chamber) : Ended s s c :=
  ⟨fun _ => rfl, ⟨rfl, rfl, ⟨rfl, rfl⟩, rfl, rfl, rfl⟩, rfl, rfl, rfl⟩

theorem Ended.trans {s t u : State} {c : Chamber} (h : Ended s t c) (g : Ended t u c) : Ended s u c :=
  ⟨fun k => (g.chan k).trans (h.chan k),
   ⟨g.same.residue.trans h.same.residue, g.same.pressure.trans h.same.pressure,
    ⟨g.same.gauges.1.trans h.same.gauges.1, g.same.gauges.2.trans h.same.gauges.2⟩,
    g.same.instruments.1.trans h.same.instruments.1, g.same.instruments.2.1.trans h.same.instruments.2.1,
    g.same.instruments.2.2.trans h.same.instruments.2.2⟩,
   g.state.trans h.state, g.phase.trans h.phase, g.vac.trans h.vac⟩

/-- An update of the chamber that touches none of it. -/
theorem ended_modCh (s : State) (c : Chamber) (f : Csq → Csq)
    (h : f (s.ch c) = { f (s.ch c) with
      residue := (s.ch c).residue, pressure := (s.ch c).pressure, processReading := (s.ch c).processReading,
      wideReading := (s.ch c).wideReading, throttlePos := (s.ch c).throttlePos, genReading := (s.ch c).genReading,
      biasReading := (s.ch c).biasReading, state := (s.ch c).state, phase := (s.ch c).phase, vac := (s.ch c).vac }) :
    Ended s (s.modCh c f) c := by
  refine ⟨fun _ => rfl, ⟨?_, ?_, ⟨?_, ?_⟩, ?_, ?_, ?_⟩, ?_, ?_, ?_⟩ <;> rw [State.modCh_ch_same, h]

theorem ended_post (e : Event) (s : State) (c : Chamber) : Ended s (post e s) c := by
  refine ⟨fun _ => ?_, ⟨?_, ?_, ⟨?_, ?_⟩, ?_, ?_, ?_⟩, ?_, ?_, ?_⟩ <;> simp

theorem ended_stopRf (c : Chamber) (s : State) : Ended s (stopRf c s) c := by
  refine ⟨fun _ => ?_, ⟨?_, ?_, ⟨?_, ?_⟩, ?_, ?_, ?_⟩, ?_, ?_, ?_⟩ <;> simp [stopRf_ch]

theorem ended_fileReport (c : Chamber) (r : Report) (s : State) : Ended s (fileReport c r s) c :=
  ended_modCh s c _ (by split <;> rfl)

theorem Csq.setSlot_same (q : Csq) (sl : Slot) (r : Option StepRec) :
    q.setSlot sl r = { q with slotA := (q.setSlot sl r).slotA, slotB := (q.setSlot sl r).slotB } := by cases sl <;> rfl

/-- Ending a step with a result that is not OK. -/
theorem endStep_ended (c : Chamber) (res : Result) (s : State) (h : res ≠ .ok) : Ended s (endStep c res s) c := by
  unfold endStep
  split
  · exact Ended.refl s c
  · simp only [h, false_and, if_false]
    refine (((ended_stopRf c s).trans (ended_fileReport c _ _)).trans (ended_modCh _ c _ ?_)).trans (ended_post _ _ c)
    rw [Csq.setSlot_same]

/-- Flushing the waiting step. -/
theorem flushWaiting_ended (c : Chamber) (s : State) : Ended s (flushWaiting c s) c := by
  unfold flushWaiting
  split
  · exact Ended.refl s c
  · refine ((ended_fileReport c _ s).trans (ended_modCh _ c _ ?_)).trans (ended_post _ _ c)
    rw [Csq.setSlot_same]

/-! ## Reports (R37, R39) -/

/-- A filed report is the newest of the queue. -/
theorem fileReport_last (c : Chamber) (r : Report) (s : State) :
    ∃ xs x, ((fileReport c r s).ch c).reports = xs ++ [x] ∧ x.id = r.id ∧ x.result = r.result := by
  unfold fileReport
  rw [State.modCh_ch_same]
  generalize s.ch c = q
  split
  · exact ⟨q.reports, { r with loss := false }, rfl, rfl, rfl⟩
  · exact ⟨q.reports.tail, { r with loss := true }, rfl, rfl, rfl⟩

/-- The newest report stays when another is filed. -/
theorem fileReport_keeps (c : Chamber) (r : Report) (s : State) {xs : List Report} {x : Report}
    (h : (s.ch c).reports = xs ++ [x]) : x ∈ ((fileReport c r s).ch c).reports := by
  unfold fileReport
  rw [State.modCh_ch_same]
  split
  · simp [h]
  · rename_i n
    have : xs ≠ [] := by
      rintro rfl
      simp [h, Config.reportQueueSize] at n
    simp [h, List.tail_append_of_ne_nil this]

@[simp] theorem Csq.setSlot_reports (q : Csq) (sl : Slot) (r : Option StepRec) : (q.setSlot sl r).reports = q.reports := by
  cases sl <;> rfl

/-- The report of a step that is ended is the newest of the queue. -/
theorem endStep_last (c : Chamber) (res : Result) (s : State) {e : StepCtx} (h : (s.ch c).exec = some e) :
    ∃ xs x, ((endStep c res s).ch c).reports = xs ++ [x] ∧ x.id = e.record.id ∧ x.result = res := by
  unfold endStep
  simp only [h, post_ch, State.modCh_ch_same, Csq.setSlot_reports]
  generalize (if res = .ok ∧ purgeCleans (stopRf c s) c e.record = true
    then (stopRf c s).modCh c (fun q => { q with residue := cleanResidue }) else stopRf c s) = u
  exact fileReport_last c (mkReport u e res) u

/-- The report of a step that is ended and its waiting step flushed stands in the queue. -/
theorem endStep_reported (c : Chamber) (res : Result) (s : State) {e : StepCtx} (h : (s.ch c).exec = some e) :
    ReportedAs (flushWaiting c (endStep c res s)) c e.record.id res := by
  obtain ⟨xs, x, hx, hid, hres⟩ := endStep_last c res s h
  refine ⟨x, ?_, hid, hres⟩
  generalize endStep c res s = u at hx ⊢
  unfold flushWaiting
  split
  · rw [hx]; simp
  · simp only [post_ch, State.modCh_ch_same, Csq.setSlot_reports]
    exact fileReport_keeps c _ _ hx

/-! ## FAULTED (R15) -/

/-- The vacuum status a fault leaves. -/
def faultVac (q : Csq) : Vac :=
  let v := if q.state = .running then vacAfterBreak q.vac q.phase else q.vac
  if v = .highvac then .roughed else v

theorem faultVac_ne (q : Csq) : faultVac q ≠ .highvac := by
  unfold faultVac
  generalize (if q.state = .running then vacAfterBreak q.vac q.phase else q.vac) = v
  cases v <;> simp

/-- That status, as the statements say it. -/
theorem vacAfterFault_eq (s : State) (c : Chamber) : vacAfterFault s c = faultVac (s.ch c) := by
  unfold vacAfterFault faultVac vacAfterBreak Csq.inPhase
  cases (s.ch c).state <;> cases (s.ch c).phase <;> rfl

/-- The chamber after the process activity is stopped and its valves are commanded closed (R15). -/
theorem stopAll_ch (c : Chamber) (s : State) :
    ∃ g a b v : Valve, g.cmd = false ∧ a.cmd = false ∧ b.cmd = false ∧ v.cmd = false ∧
      (closeValve c .vent (closeValve c .gate (closeRough c
        (setThrottle c .open (clearDeviations c (zeroCurrents c (zeroTargets c (stopRf c s)))))))).ch c
      = { s.ch c with rfEn := false, source := 0, bias := 0, throttle := .open, gate := g, roughSoft := a, roughFast := b,
                      vent := v } := by
  generalize hw : setThrottle c .open (clearDeviations c (zeroCurrents c (zeroTargets c (stopRf c s)))) = w
  have h : w.ch c = { s.ch c with rfEn := false, source := 0, bias := 0, throttle := .open } := by
    subst hw; simp [setThrottle_ch, stopRf_ch]
  refine ⟨(w.ch c).gate.commandClose w.now (travelOf w c .gate), (w.ch c).roughSoft.commandClose w.now (travelOf w c .roughSoft),
    (w.ch c).roughFast.commandClose w.now (travelOf w c .roughFast), (w.ch c).vent.commandClose w.now (travelOf w c .vent),
    rfl, rfl, rfl, rfl, ?_⟩
  unfold closeRough
  simp only [closeValve_ch, if_true, Csq.setValve, Csq.valve, h]
  rfl

/-- Everything a fault leaves of its chamber, when it is taken. -/
theorem faultChamber_faulted (c : Chamber) (cause : Result) (s : State) (hc : cause ≠ .ok)
    (h : (s.ch c).state ≠ .offline ∧ (s.ch c).state ≠ .faulted) :
    FaultedWith (faultChamber c cause s) c cause ∧ SensedAs s (faultChamber c cause s) c
      ∧ ((faultChamber c cause s).ch c).vac = faultVac (s.ch c) ∧ Out (faultChamber c cause s) c
      ∧ (∀ e, (s.ch c).state = .running → (s.ch c).exec = some e →
          ReportedAs (faultChamber c cause s) c e.record.id cause) := by
  unfold faultChamber
  simp only [h.1, h.2, or_self, if_false]
  have hrep : ∀ e, (s.ch c).state = .running → (s.ch c).exec = some e →
      ReportedAs (if (s.ch c).state = .running then flushWaiting c (endStep c cause s) else s) c e.record.id cause := by
    intro e r x
    rw [if_pos r]
    exact endStep_reported c cause s x
  have hend : Ended s (if (s.ch c).state = .running then flushWaiting c (endStep c cause s) else s) c := by
    split
    · exact (endStep_ended c cause s hc).trans (flushWaiting_ended c _)
    · exact Ended.refl s c
  generalize (if (s.ch c).state = .running then flushWaiting c (endStep c cause s) else s) = u at hrep hend
  change FaultedWith (leaveForeline c _) c cause ∧ SensedAs s (leaveForeline c _) c ∧ _ ∧ Out (leaveForeline c _) c ∧ _
  obtain ⟨g, a, b, v, hg, ha, hb, hv, hch⟩ := stopAll_ch c u
  have htgt : ∀ k, ((closeValve c .vent (closeValve c .gate (closeRough c
        (setThrottle c .open (clearDeviations c (zeroCurrents c (zeroTargets c (stopRf c u)))))))).chan c k).target = 0 := by
    intro k; simp
  generalize (closeValve c .vent (closeValve c .gate (closeRough c
        (setThrottle c .open (clearDeviations c (zeroCurrents c (zeroTargets c (stopRf c u)))))))) = w at hch htgt ⊢
  generalize hz : postChstate c (post (.fault c cause) ((releaseHoldings c w).modCh c _)) = z
  have hzq : c ∉ z.gat.queue := by
    subst hz; simpa [postChstate] using releaseHoldings_queue c w
  have hzc : z.ch c = { u.ch c with
      rfEn := false, source := 0, bias := 0, throttle := .open, gate := g, roughSoft := a, roughFast := b, vent := v,
      request := none, admitTimer := none, holdings := [], state := .faulted, phase := .none, vac := faultVac (s.ch c),
      cause := some cause, exec := none, hold := none } := by
    subst hz
    simp only [postChstate, post_ch, State.modCh_ch_same, releaseHoldings_ch, hch]
    rfl
  have hzt : ∀ k, (z.chan c k).target = 0 := by
    intro k; subst hz; simpa [postChstate] using htgt k
  obtain ⟨h1, h2, h3⟩ := leaveForeline_out c z hzq
  refine ⟨⟨?_, ?_, ?_, ?_, ?_, ?_, ?_, ?_, ?_, h3.queue, ⟨h3.waiting, h3.holder⟩, ?_⟩, ⟨?_, ?_, ⟨?_, ?_⟩, ?_, ?_, ?_⟩, ?_, h3, ?_⟩
  all_goals try rw [h1, hzc]
  · exact ⟨rfl, rfl, rfl⟩
  · intro k; rw [h2]; exact hzt k
  · exact ⟨hg, ha, hb, hv⟩
  · exact faultVac_ne _
  · exact hend.same.residue
  · exact hend.same.pressure
  · exact hend.same.gauges.1
  · exact hend.same.gauges.2
  · exact hend.same.instruments.1
  · exact hend.same.instruments.2.1
  · exact hend.same.instruments.2.2
  · intro e r x
    unfold ReportedAs
    rw [h1, hzc]
    exact hrep e r x

/-! ## READY (R11) -/

/-- Everything an entry into READY leaves of its chamber. -/
theorem enterReady_ready (c : Chamber) (s : State) :
    EnteredReady (enterReady c s) c ∧ SensedAs s (enterReady c s) c ∧ ((enterReady c s).ch c).vac = (s.ch c).vac
      ∧ ((enterReady c s).ch c).reports = (s.ch c).reports ∧ ((enterReady c s).ch c).cause = (s.ch c).cause
      ∧ Out (enterReady c s) c := by
  unfold enterReady
  dsimp only
  generalize hw : setThrottle c .open (stopRf c (clearDeviations c (zeroTargets c s))) = w
  have hwc : w.ch c = { s.ch c with rfEn := false, source := 0, bias := 0, throttle := .open } := by
    subst hw; simp [setThrottle_ch, stopRf_ch]
  have hwt : ∀ k, (w.chan c k).target = 0 := by intro k; subst hw; simp
  have hcr : ∃ a b : Valve, (closeRough c w).ch c
      = { s.ch c with rfEn := false, source := 0, bias := 0, throttle := .open, roughSoft := a, roughFast := b } := by
    refine ⟨(w.ch c).roughSoft.commandClose w.now (travelOf w c .roughSoft),
      (w.ch c).roughFast.commandClose w.now (travelOf w c .roughFast), ?_⟩
    unfold closeRough
    simp only [closeValve_ch, if_true, Csq.setValve, Csq.valve, hwc]
    rfl
  obtain ⟨a, b, hcr⟩ := hcr
  generalize hz : postChstate c ((releaseHoldings c (closeRough c w)).modCh c _) = z
  have hzq : c ∉ z.gat.queue := by
    subst hz; simpa [postChstate] using releaseHoldings_queue c (closeRough c w)
  have hzc : z.ch c = { s.ch c with
      rfEn := false, source := 0, bias := 0, throttle := .open, roughSoft := a, roughFast := b, request := none,
      admitTimer := none, holdings := [], state := .ready, phase := .none, exec := none, hold := none } := by
    subst hz
    simp only [postChstate, post_ch, State.modCh_ch_same, releaseHoldings_ch, hcr]
  have hzt : ∀ k, (z.chan c k).target = 0 := by
    intro k; subst hz; simpa [postChstate] using hwt k
  obtain ⟨h1, h2, h3⟩ := leaveForeline_out c z hzq
  refine ⟨⟨?_, ?_, ?_, ?_, ?_, ?_, ?_, ?_, h3.queue, ⟨h3.waiting, h3.holder⟩⟩, ⟨?_, ?_, ⟨?_, ?_⟩, ?_, ?_, ?_⟩, ?_, ?_, ?_, h3⟩
  all_goals try rw [h1, hzc]
  · exact ⟨rfl, rfl, rfl⟩
  · intro k; rw [h2]; exact hzt k

end Sys2Proof.Machine
end

