-- ==== Sys2Proof/Laws/Posted.lean ====
section
/-! SUPPORT. The order of the event queue: how PostedFirst goes through the events a command posts one after the other. -/

namespace Sys2Proof.Machine

variable {s t u : State} {e : Event} {es : List Event}

/-- What post does to the event queue (R177). -/
theorem post_events (e : Event) (s : State) : (post e s).svl.events =
    if unmasked s e = true ∧ s.svl.events.length < Config.eventQueueSize
      then s.svl.events ++ [{ tag := timeTag s, event := e }] else s.svl.events := by
  unfold post
  cases unmasked s e <;> by_cases h : Config.eventQueueSize ≤ s.svl.events.length <;> simp [h, State.modSvl]

@[simp] theorem post_mask : (post e s).svl.mask = s.svl.mask := by unfold post; split <;> [rfl; (split <;> rfl)]
@[simp] theorem post_timeTag : timeTag (post e s) = timeTag s := by simp [timeTag]
@[simp] theorem post_unmasked : unmasked (post e s) = unmasked s := by funext x; simp [unmasked]

/-- Events are only added behind those that wait. -/
theorem post_prefix (e : Event) (s : State) : s.svl.events <+: (post e s).svl.events := by
  rw [post_events]; split <;> simp

/-- Only the queue, the mask, the transmission and the clock of the state before count. -/
theorem PostedFirst.congr (hv : u.svl = s.svl) (hn : u.now = s.now) (h : PostedFirst u t es) : PostedFirst s t es := by
  have hm : unmasked u = unmasked s := by funext x; simp [unmasked, hv]
  have ht : timeTag u = timeTag s := by simp [timeTag, hn]
  simpa [PostedFirst, hv, hm, ht] using h

/-- Nothing is posted before what stands behind the queue as it was. -/
theorem PostedFirst.nil (h : s.svl.events <+: t.svl.events) : PostedFirst s t [] := by
  obtain ⟨rest, hr⟩ := h
  exact fun _ _ => ⟨rest, by simp [hr]⟩

/-- An event is posted first, then those that follow it. -/
theorem PostedFirst.cons (h : PostedFirst (post e s) t es) : PostedFirst s t (e :: es) := by
  intro htx hlen
  have hev := post_events e s
  cases hu : unmasked s e
  · obtain ⟨rest, hr⟩ := h (by simpa using htx) (by simpa [hev, hu, List.filter_cons] using hlen)
    exact ⟨rest, by simpa [hev, hu, List.filter_cons] using hr⟩
  · have hl : s.svl.events.length + ((es.filter (unmasked s)).length + 1) ≤ Config.eventQueueSize := by
      simpa [List.filter_cons, hu] using hlen
    have hroom : s.svl.events.length < Config.eventQueueSize := by omega
    obtain ⟨rest, hr⟩ := h (by simpa using htx) (by simp [hev, hu, hroom]; omega)
    exact ⟨rest, by simpa [hev, hu, hroom, List.filter_cons] using hr⟩

end Sys2Proof.Machine
end

