-- ==== Sys2Proof/WellFormed.lean ====
section
/-! DEFINITION. Which commands are well formed: every numbering is a Fin, so the checks that remain are that a notice
names an owner the input is told to, that a raw EMO assertion and a rising ARC edge come by the rows that carry them, and
that an instrument reply fits the bus. exec gives every command a meaning, the ill-formed ones too. -/

namespace Sys2Proof

/-- The owners an input's qualified changes are told to (R155). EMO's own output forcing is the IIU's and needs no notice. -/
def Input.toldTo (i : Input) (o : NoticeOwner) : Bool :=
  match i, o with
  | .emo, .csq _ => true
  | .emo, .fla => true
  | .emo, .gat => true
  | .foreOk, .csq _ => true
  | .foreOk, .fla => true
  | .exhOk, .csq _ => true
  | .cabOk _, .gat => true
  | .cfgProtect, .svl => true
  | .lidClosed c, .csq d => c == d
  | .turboOk c, .csq d => c == d
  | .endpoint c, .csq d => c == d
  | _, _ => false

/-- The longest instrument reply: address, status, four data bytes, check value (R183). -/
def maxInstrumentReply : Nat := 8

/-- The well-formed commands. -/
def Instr.wf (i : Instr) : Bool :=
  match i with
  | .rawInputChange (.qualified .emo) level => !level
  | .rawInputChange (.arc _) level => !level
  | .qualifiedChangeNotice o inp => inp.toldTo o
  | .instrumentReply r => decide (r.bytes.length ≤ maxInstrumentReply)
  | _ => true

end Sys2Proof
end

