-- ==== Sys2Proof/Tests/Slice0.lean ====
section
/-! SUPPORT. Tests: the well-formedness checks, worked figures of the spec, and for each statement with hypotheses a
theorem that shows a concrete state and operands that meet them. Expected values are the spec's or worked by hand from its
rules. -/

namespace Sys2Proof.Tests

open Sys2Proof Sys2Proof.Machine

/-! ## Well-formedness -/

theorem test_wf_refuses_raw_emo_assertion : Instr.wf (.rawInputChange (.qualified .emo) true) = false := by decide
theorem test_wf_refuses_raw_arc_edge : Instr.wf (.rawInputChange (.arc 3) true) = false := by decide
theorem test_wf_refuses_notice_to_other_owner : Instr.wf (.qualifiedChangeNotice (.csq 1) (.lidClosed 2)) = false := by decide
theorem test_wf_refuses_long_reply : Instr.wf (.instrumentReply { txn := 0, bytes := List.replicate 9 0#8 }) = false := by decide
theorem test_wf_takes_longest_reply : Instr.wf (.instrumentReply { txn := 0, bytes := List.replicate 8 0#8 }) = true := by decide
theorem test_wf_takes_raw_release : Instr.wf (.rawInputChange (.qualified .emo) false) = true := by decide
theorem test_wf_takes_notice : Instr.wf (.qualifiedChangeNotice .svl .cfgProtect) = true := by decide

/-! ## Worked figures -/

/-- R25's and R40's worked load: flow 3,000 on GCF 270 and full scale 1,000 is clamped to 10,000, effective flow 2,700. -/
theorem test_command_clamped : storedCommand 3000 270 1000 100 = (10000, true, false) ∧ effectiveFlow 10000 270 1000 = 2700 := by
  decide

/-- The same load's flow 10 with GCF 270, raw command 37, is raised to the floor 100, effective flow 27. -/
theorem test_command_raised : rawCommand 10 270 1000 = 37 ∧ storedCommand 10 270 1000 100 = (100, false, true)
    ∧ effectiveFlow 100 270 1000 = 27 := by decide

/-- R103: a reading of 50 is in the deadband, 51 is kept, above 12,000 stands at 12,000. -/
theorem test_measured : measured 50 = 0 ∧ measured 51 = 51 ∧ measured 12001 = 12000 := by decide

/-- R105's worked rows at 1,020 and 1,040 ms. -/
theorem test_integration :
    LineDyn.integrate (9259 * 1000 * 270 * 20) { state := .ready, total := 0, rem := 0 }
      = { state := .ready, total := 83, rem := 198600000 } ∧
    LineDyn.integrate (9270 * 1000 * 270 * 20) { state := .ready, total := 83, rem := 198600000 }
      = { state := .ready, total := 166, rem := 456600000 } := by decide

/-- R128: the arc count stands at 65,535. -/
theorem test_arc_count_stands : min (65535 + 1) Config.arcCountMax = 65535 := by decide

/-- R127: an endpoint at 47,318 ms with 30 % gives an overetch of 14,196 ms. -/
theorem test_overetch : overetchMs 47318 30 = 14196 := by decide

/-- R115: a pressure of none is out of band; at 5 % of 20,000 the band ends at 1,000 away. -/
theorem test_band : inBand none 20000 5 = false ∧ inBand (some 21000) 20000 5 = true ∧ inBand (some 21001) 20000 5 = false
    ∧ inBand (some 19000) 20000 5 = true := by decide

/-- R122: forward power of exactly 80 % of the setpoint with exactly 20 % reflected passes; one watt less forward fails. -/
theorem test_strike : strikePasses 500 400 80 = true ∧ strikePasses 500 399 0 = false ∧ strikePasses 500 400 81 = false := by
  decide

/-- R173: the CRC-16 of the nine digits, whose value for this polynomial, initial value and order is 0x29B1 by the public
check value. PRESUMED: the check value is the polynomial's, not the spec's. -/
theorem test_crc : crc16 [0x31#8, 0x32#8, 0x33#8, 0x34#8, 0x35#8, 0x36#8, 0x37#8, 0x38#8, 0x39#8] = 0x29B1#16 := by
  decide +kernel

/-- R183: multi-byte fields are big-endian. -/
theorem test_big_endian : u16 0x0D06 = [0x0D#8, 0x06#8] ∧ field [0x01#8, 0x02#8, 0x03#8] 1 2 = 0x0203 := by decide

/-- R101: a ramp of limit 3,000 toward 10,000 from 8,000 lands on the target; a fall that would stop below the floor 100
stops at 0, and a rise from 0 by 50 snaps to the floor. -/
theorem test_ramp : rampStep 8000 10000 3000 100 = 10000 ∧ rampStep 120 0 50 100 = 0 ∧ rampStep 0 5000 50 100 = 100 := by
  decide

/-! ## States the witnesses stand on -/

/-- Every input qualified at its normal level, outputs not forced. -/
def quiet : State :=
  allInputs.foldl (fun s i => s.modInp i (fun x => { x with qual := some (normalLevel i), timer := none }))
    (State.reset.modIiu (fun u => { u with forcing := false }))

/-- A used poll entry. -/
def entry (address owner role : Nat) : PollCfg := { used := true, address := address, owner := owner, role := role, period := 5 }

/-- An entry written as used and OK. -/
def withEntry (e : EntryIx) (p : PollCfg) (s : State) : State :=
  (s.modCfg (fun g => { g with poll := g.poll.put e p })).modPoll e (fun x => { x with state := .ok, countdown := 5 })

/-- Line L1 of class 0 with capacity 1,000, READY and bound to channel 1 of PC1; poll entries 0 FORELINE, 1 GAUGE_WIDE,
2 THROTTLE, 3 FLOW 1 and 4 SOURCE of PC1; the table enabled. -/
def tool : State :=
  withEntry 4 (entry 5 1 11) (withEntry 3 (entry 4 1 0) (withEntry 2 (entry 3 1 10) (withEntry 1 (entry 2 1 9)
    (withEntry 0 (entry 1 0 13) ((quiet.modCfg (fun g =>
      { g with
        enabled := true
        lines := g.lines.put 0 (some { gasCode := 7, cls := 0, gcf := 1000, capacity := 1000, cabinet := 0, pumpS := 10 })
        maps := g.maps.put 0 ((g.maps.look 0).put 0 { line := some 0, fs := 1000, floor := 100, ramp := 3000 }) })).modLine 0
      (fun x => { x with state := .ready }))))))

/-- A request frame. -/
def fr (kind : Byte) (body : List Byte) : Frame := { kind := kind, tag := 9#8, body := body }

/-- The state with one request waiting. -/
def ask (s : State) (kind : Byte) (body : List Byte) : State := s.modSvl (fun v => { v with buffer := [fr kind body] })

/-- The state with PC1's sequencer changed. -/
def pc1 (f : Csq → Csq) : State := tool.modCh 0 f

/-- A step record. -/
def rec (k : Kind) : StepRec :=
  { id := 300, kind := k, setA := [], setB := [], targetA := 20000, targetB := 30000, tolerance := 5, settleMs := 0,
    sourceA := 500, sourceB := 400, biasA := 0, biasB := 0, durationMs := 1000, endMode := .endpoint, maskMs := 500,
    overetchPct := 30, phaseAMs := 700, phaseBMs := 300, firstExtMs := 500, cycleCount := 2, arcLimit := 3, purge := none,
    warnings := Warnings.none }

/-- The executing-step context of a step just started, with every timer stopped. -/
def ctx (k : Kind) : StepCtx :=
  { record := rec k, slot := .a, startTag := 0, admitAt := none, admitWait := none, purged := false, mainAt := none,
    etchAt := some 100, endpointMs := none, overetchAt := none, maskDone := false, firstCycle := true, cycles := 0, arcs := 0,
    minMax := none, accums := [], roughHeld := 0, roughSince := none, paused := none, baseTimer := none, ventTimer := none,
    purgeTimer := none, settleLimit := none, settleTimer := none, duration := none, excursion := none, strikeTimer := none,
    maskTimer := none, overetchTimer := none, cycleTimer := none }

/-- PC1 RUNNING a step in a phase, its record in slot A, at 1,000 ms. -/
def runs (p : Phase) (e : StepCtx) : State :=
  { pc1 (fun q => { q with state := .running, phase := p, vac := .roughed, exec := some e, slotA := some e.record,
                           loadPtr := .b, runPtr := .b }) with now := 1000 }

/-- PC1 in ROUGH_FAST holding the foreline, its rough valves open, with a command waiting. -/
def roughing : State :=
  { ((runs .roughFast (ctx .pumpdown)).modCh 0 (fun q =>
      { q with roughSoft := { cmd := true, pos := .opened }, roughFast := { cmd := true, pos := .opening 1100 } })).modFla
      (fun a => { a with state := .heldChamber, holder := some (.chamber 0) }) with
    pending := [.valveTravelExpiry 0 .roughFast] }

/-! ## Witnesses: the machine as a whole -/

theorem test_witness_EmptyQueuePassesOneMillisecond : State.reset.pending = [] := rfl

theorem test_witness_LockedFreezesConfiguration : ∃ s t : State, s.cfg.lock = .locked ∧
    s.pending.head? ≠ some .fullReset ∧ step s = .next t :=
  ⟨{ (ask quiet 0x0A#8 [0#8]).modCfg (fun g => { g with lock := .locked }) with pending := [.cfglk] }, _, rfl, by decide, rfl⟩

theorem test_witness_ValveLawKept : ∃ t, ValveLaw roughing ∧ step roughing = .next t :=
  ⟨_, fun c => by revert c; decide, rfl⟩

theorem test_witness_QueueBoundsKept : ∃ t, Bounded roughing ∧ step roughing = .next t :=
  ⟨_, ⟨by decide, by decide, fun c => by revert c; decide, by decide, fun x hx => by cases hx⟩, rfl⟩

theorem test_witness_TotalsNeverFall : ∃ t, RemaindersLow roughing ∧
    (∀ l : Line, (roughing.ln l).total ≤ Config.totalMax) ∧ roughing.pending.head? ≠ some .fullReset ∧
    step roughing = .next t :=
  ⟨_, fun l => by revert l; decide, fun l => by revert l; decide, by decide, rfl⟩

theorem test_witness_ForelineLawKept : ∃ t, ForelineLaw roughing ∧ step roughing = .next t :=
  ⟨_, ⟨by decide, fun _ => ⟨0, rfl⟩, by decide, fun c => by revert c; decide, fun l => by revert l; decide,
    fun _ c => by revert c; decide, fun _ l => by revert l; decide⟩, rfl⟩

theorem test_witness_ChamberLawKept : ∃ t, (∀ c : Chamber, ChamberLaw roughing c) ∧ step roughing = .next t := by
  refine ⟨_, fun c => ⟨?_, ?_, ?_, ?_, ?_, ?_, ?_, ?_, ?_, ?_, ?_, ?_, ?_, ?_⟩, rfl⟩
  case refine_6 =>
    have h : ∀ c : Chamber, (roughing.ch c).exec.all (fun e => decide (e.slot = (roughing.ch c).runPtr.other ∧
        (roughing.ch c).slot e.slot = some e.record ∧
        ((roughing.ch c).loadPtr = (roughing.ch c).runPtr ↔ (roughing.ch c).slot (roughing.ch c).runPtr = none))) = true := by
      decide
    intro e he
    have := h c
    rw [he] at this
    simpa using this
  all_goals (revert c; decide)

theorem test_witness_InvariantsAtReset : ValveLaw quiet := fun c => by revert c; decide

/-! ## Witnesses: requests -/

/-- One request of a kind waits and nothing is owed: what Served and Asks say together. -/
def Asked (s : State) (kind : Byte) (k : ReqKind) (body : List Byte) : Prop :=
  Served (ask s kind body) ∧ Asks (ask s kind body) k (fr kind body)

theorem test_witness_ReadingRequestsAnswer (l : Line) (i : GasClass) (c : Chamber) (k : Channel) (e : EntryIx) (n : Input)
    (x y : Byte) :
    Asked quiet 0x01#8 .ident [] ∧
    (Asked quiet 0x0B#8 .rdcfg (u8 0 ++ u8 (l.val + 1) ++ [x]) ∧ Asked quiet 0x0B#8 .rdcfg (u8 1 ++ u8 i.val ++ [x]) ∧
      Asked quiet 0x0B#8 .rdcfg (u8 2 ++ u8 (c.val + 1) ++ [x]) ∧
      Asked quiet 0x0B#8 .rdcfg (u8 3 ++ u8 (c.val + 1) ++ u8 (k.val + 1)) ∧
      Asked quiet 0x0B#8 .rdcfg (u8 4 ++ u8 e.val ++ [x]) ∧ Asked quiet 0x0B#8 .rdcfg (u8 5 ++ [y, x]) ∧
      Asked quiet 0x0B#8 .rdcfg (u8 6 ++ u8 (inputCode n).1 ++ u8 (inputCode n).2) ∧
      (6 < (7#8 : Byte).toNat ∧ Asked quiet 0x0B#8 .rdcfg [7#8, y, x])) ∧
    (Asked quiet 0x16#8 .totl (u8 (l.val + 1)) ∧ Asked quiet 0x16#8 .totl (u8 0) ∧
      (12 < (13#8 : Byte).toNat ∧ Asked quiet 0x16#8 .totl [13#8])) := by
  refine ⟨⟨rfl, rfl, rfl, rfl⟩, ⟨?_, ?_, ?_, ?_, ?_, ?_, ?_, by decide, ?_⟩, ?_, ?_, by decide, ?_⟩ <;> exact ⟨rfl, rfl, rfl, rfl⟩

/-- A report. -/
def report : Report :=
  { id := 300, kind := .purge, result := .ok, loss := false, startTag := 0, endTag := 1, admitWait := 0, purged := false,
    mainMs := 1, endpointMs := none, overetchMs := none, cycles := none, arcs := 0, minMax := none, warnings := Warnings.none,
    gas := [] }

theorem test_witness_StatusAndReportRequests :
    (∀ p ∈ [([0#8, 7#8] : List Byte), [1#8, 0#8], [6#8, 1#8], [0#8, 8#8], [6#8, 2#8], [7#8, 0#8]], Asked quiet 0x02#8 .stat p) ∧
    (Asked (pc1 (fun q => { q with reports := [report] })) 0x15#8 .rpt (u8 1) ∧
      ((ask (pc1 (fun q => { q with reports := [report] })) 0x15#8 (u8 1)).ch 0).reports = report :: []) ∧
    (Asked tool 0x15#8 .rpt (u8 6) ∧ ((ask tool 0x15#8 (u8 6)).ch 5).reports = []) ∧
    Asked tool 0x15#8 .rpt [0#8] ∧ Asked tool 0x15#8 .rpt [7#8] := by
  refine ⟨?_, ⟨⟨rfl, rfl, rfl, rfl⟩, rfl⟩, ⟨⟨rfl, rfl, rfl, rfl⟩, rfl⟩, ⟨rfl, rfl, rfl, rfl⟩, rfl, rfl, rfl, rfl⟩
  simp only [List.forall_mem_cons, List.not_mem_nil, false_implies, implies_true, and_true]
  refine ⟨?_, ?_, ?_, ?_, ?_, ?_⟩ <;> exact ⟨rfl, rfl, rfl, rfl⟩

/-- A state with n event records in the queue. -/
def withEvents (n : Nat) : State :=
  quiet.modSvl (fun v => { v with events := List.replicate n { tag := 0, event := .mark 0 } })

theorem test_witness_MaskAndMarkRequests (b : Byte) :
    Asked quiet 0x17#8 .evmsk [b] ∧ (Asked (withEvents 31) 0x18#8 .mark (u32 4294967295) ∧ 4294967295 < 4294967296 ∧
      (withEvents 31).svl.events.length < Config.eventQueueSize) ∧
    (Asked (withEvents 32) 0x18#8 .mark (u32 0) ∧ Config.eventQueueSize ≤ (withEvents 32).svl.events.length) :=
  ⟨⟨rfl, rfl, rfl, rfl⟩, ⟨⟨rfl, rfl, rfl, rfl⟩, by decide, by decide⟩, ⟨rfl, rfl, rfl, rfl⟩, by decide⟩

/-- The lock level set. -/
def lockedAt (l : Lock) (s : State) : State := s.modCfg (fun g => { g with lock := l })

theorem test_witness_LockLevelTable (l : Lock) :
    (Asked quiet 0x0A#8 .cfglk (u8 l.code) ∧ (ask quiet 0x0A#8 (u8 l.code)).cfg.lock = .open) ∧
    (Asked (lockedAt .guarded quiet) 0x0A#8 .cfglk (u8 l.code) ∧
      ((ask (lockedAt .guarded quiet) 0x0A#8 (u8 l.code)).inp .cfgProtect).qual = some false) ∧
    (Asked (lockedAt .guarded State.reset) 0x0A#8 .cfglk (u8 l.code) ∧
      ((ask (lockedAt .guarded State.reset) 0x0A#8 (u8 l.code)).inp .cfgProtect).qual ≠ some false) ∧
    (Asked (lockedAt .locked quiet) 0x0A#8 .cfglk (u8 l.code)) ∧ Asked quiet 0x0A#8 .cfglk [3#8] ∧ 2 < (3#8 : Byte).toNat :=
  ⟨⟨⟨rfl, rfl, rfl, rfl⟩, rfl⟩, ⟨⟨rfl, rfl, rfl, rfl⟩, by cases l <;> decide⟩,
    ⟨⟨rfl, rfl, rfl, rfl⟩, by cases l <;> decide⟩, ⟨rfl, rfl, rfl, rfl⟩, ⟨rfl, rfl, rfl, rfl⟩, by decide⟩

theorem test_witness_CompatibilityPairWritten (i j : GasClass) (v : Byte) :
    Asked quiet 0x04#8 .cfgcx (u8 i.val ++ u8 j.val ++ [v]) ∧
    gateOpen (ask quiet 0x04#8 (u8 1 ++ u8 7 ++ [1#8])) = true ∧ ((1 : GasClass) ≠ 7 ∧ (1 : GasClass) ≠ 0 ∧ (7 : GasClass) ≠ 0) ∧
    ¬((2#8 : Byte) = 0#8 ∨ (2#8 : Byte) = 1#8) :=
  ⟨⟨rfl, rfl, rfl, rfl⟩, by decide, by decide, by decide⟩

/-- A map entry at the ends of its ranges. -/
def mapAt (l : Option Line) : MapEntry := { line := l, fs := 20000, floor := 500, ramp := 1 }

theorem test_witness_ChannelMapWritten (m : MapEntry) (c : Chamber) (k : Channel) :
    Asked tool 0x06#8 .cfgmap (u8 (c.val + 1) ++ u8 (k.val + 1) ++ mapBytes m) ∧
    (10 ≤ (mapAt none).fs ∧ (mapAt none).fs ≤ 20000 ∧ (mapAt none).floor ≤ 500 ∧ 1 ≤ (mapAt none).ramp ∧
      (mapAt none).ramp ≤ 10000) ∧ gateOpen tool = true ∧ (tool.ch 0).state = .offline ∧
    ((pc1 (fun q => { q with state := .ready })).ch 0).state ≠ .offline ∧
    ((0 : Channel) ≠ 1 ∧ ((tool.cfg.maps.look 0).look 0).line = (mapAt (some 0)).line) ∧
    (∀ j : Channel, j ≠ 1 → ((tool.cfg.maps.look 0).look j).line ≠ (mapAt (some 1)).line) :=
  ⟨⟨rfl, rfl, rfl, rfl⟩, by decide, by decide, by decide, by decide, by decide, by decide⟩

theorem test_witness_ForelineAndInputSettingsWritten (i : Input) (limit resume travel ms : Nat) :
    Asked quiet 0x08#8 .cfgfl ((allIx 6).flatMap (fun c => u8 (c.val + 1)) ++ u32 limit ++ u32 resume ++ u16 travel) ∧
    ((allIx 6).length = 6 ∧ (allIx 6).Nodup) ∧ gateOpen quiet = true ∧
    (10000 ≤ 10000000 ∧ 10000000 < 4294967296 ∧ 9999999 < 10000000 ∧ 20 ≤ 2000 ∧ 2000 < 65536) ∧
    Asked quiet 0x09#8 .cfgiq (u8 (inputCode i).1 ++ u8 (inputCode i).2 ++ u32 ms) ∧
    Asked quiet 0x09#8 .cfgiq ([10#8] ++ u8 0 ++ u32 ms) ∧ (8 ≤ (10#8 : Byte).toNat ∧ (10#8 : Byte).toNat ≤ 10) :=
  ⟨⟨rfl, rfl, rfl, rfl⟩, by decide, by decide, by decide, ⟨rfl, rfl, rfl, rfl⟩, ⟨rfl, rfl, rfl, rfl⟩, by decide⟩

/-- PC1 READY. -/
def readyPc1 : State := pc1 (fun q => { q with state := .ready, vac := .highvac })

theorem test_witness_PollEntryWritten (e : EntryIx) (p : PollCfg) :
    Asked tool 0x07#8 .cfgpt (u8 e.val ++ pollBytes p) ∧
    (pollInRange (entry 127 6 12) = true ∧ gateOpen tool = true ∧ allOffline tool = true ∧
      pollUnique tool 95 (entry 127 6 12) = true) ∧
    allOffline readyPc1 = false ∧ pollUnique tool 95 (entry 127 1 9) = false :=
  ⟨⟨rfl, rfl, rfl, rfl⟩, by decide, by decide, by decide⟩

/-- The body of a CFGCH. -/
def paramBody (c : Chamber) (p : ChamberParams) : List Byte := u8 (c.val + 1) ++ paramBytes p

/-- PC1's rough timer running, at the rough timeout's 300 s. -/
def roughOut : State := runs .roughFast { ctx .pumpdown with roughHeld := 299500, roughSince := some 500 }

theorem test_witness_ChamberParametersWritten :
    Asked tool 0x05#8 .cfgch (paramBody 0 ChamberParams.default) ∧
    (bodyChamber (paramBody 0 ChamberParams.default) = some 0 ∧
      paramsOf (paramBody 0 ChamberParams.default) = ChamberParams.default ∧
      paramsInRange (paramBody 0 ChamberParams.default) = true ∧ paramsOrdered ChamberParams.default = true ∧
      purgeLineOk tool ChamberParams.default = true ∧ gateOpen tool = true ∧ (tool.ch 0).running = false ∧
      ∀ k : Channel, deviationDue tool 0 k = false) ∧
    (Asked roughOut 0x05#8 .cfgch (paramBody 0 ChamberParams.default) ∧ (roughOut.ch 0).running = true ∧
      roughDue roughOut 0 = true) ∧
    (paramsInRange (paramBody 0 { ChamberParams.default with strikeMs := 5001 }) = false) :=
  ⟨⟨rfl, rfl, rfl, by decide +kernel⟩, by decide +kernel, ⟨⟨rfl, rfl, rfl, by decide +kernel⟩, by decide, by decide⟩,
    by decide +kernel⟩

/-- A line record at the ends of its ranges. -/
def lineRec (g : GasClass) : LineCfg := { gasCode := 65535, cls := g, gcf := 2000, capacity := 50000, cabinet := 3, pumpS := 10 }

/-- The body of a CFGLN. -/
def lineBody (l : Line) (r : LineCfg) : List Byte :=
  u8 (l.val + 1) ++ u16 r.gasCode ++ u8 r.cls.val ++ u16 r.gcf ++ u16 r.capacity ++ u8 (r.cabinet.val + 1) ++ u16 r.pumpS

theorem test_witness_LineRecordWritten (l : Line) (r : LineCfg) :
    Asked tool 0x03#8 .cfgln (lineBody l r) ∧
    ((lineRec 7).gasCode < 65536 ∧ 100 ≤ (lineRec 7).gcf ∧ (lineRec 7).gcf ≤ 2000 ∧ (lineRec 7).capacity ≤ 50000 ∧
      10 ≤ (lineRec 7).pumpS ∧ (lineRec 7).pumpS ≤ 600) ∧
    (isPurgeLine tool 1 = false ∧ gateOpen tool = true ∧ pumping tool 1 = false ∧ boundOnline tool 1 = false) ∧
    (isPurgeLine (tool.modCfg (fun g => { g with chambers := g.chambers.put 5 { ChamberParams.default with purgeLine := some 1 } })) 1
      = true ∧ (lineRec 7).cls ≠ 0) ∧
    pumping (tool.modLine 0 (fun x => { x with state := .pumpoutPending })) 0 = true ∧ boundOnline readyPc1 0 = true ∧
    ((tool.ln 1).state.written (cabinetOk tool 3) ≠ (tool.ln 1).state ∧ tool.gat.queue = []) :=
  ⟨⟨rfl, rfl, rfl, rfl⟩, by decide, by decide, by decide, by decide, by decide, by decide⟩

theorem test_witness_ClosedGateRefusesEveryWrite (a b : Nat) (r : LineCfg) (i j : GasClass) (v : Byte)
    (m : MapEntry) (q : PollCfg) :
    let s := lockedAt .locked tool
    gateOpen s = false ∧ Asked s 0x03#8 .cfgln (lineBody 1 r) ∧ Asked s 0x04#8 .cfgcx (u8 i.val ++ u8 j.val ++ [v]) ∧
    Asked s 0x05#8 .cfgch (paramBody 0 ChamberParams.default) ∧ Asked s 0x06#8 .cfgmap (u8 1 ++ u8 1 ++ mapBytes m) ∧
    Asked s 0x07#8 .cfgpt (u8 0 ++ pollBytes q) ∧
    Asked s 0x08#8 .cfgfl ((allIx 6).flatMap (fun c => u8 (c.val + 1)) ++ u32 a ++ u32 b ++ u16 200) ∧
    Asked s 0x09#8 .cfgiq (u8 0 ++ u8 0 ++ u32 a) ∧ Asked s 0x0A#8 .cfglk [v] ∧
    (Asked s 0x0C#8 .pten (u8 0 ++ u8 40 ++ u16 500) ∧ field (u8 0 ++ u8 40 ++ u16 500) 0 1 = 0) ∧
    (Asked s 0x0C#8 .pten (u8 1 ++ [v, v, v]) ∧ field (u8 1 ++ [0#8, 0#8, 0#8]) 0 1 = 1) := by
  refine ⟨by decide, ?_, ?_, ⟨rfl, rfl, rfl, by decide +kernel⟩, ?_, ?_, ?_, ?_, ?_, ⟨?_, by decide⟩, ?_, by decide⟩ <;>
    exact ⟨rfl, rfl, rfl, rfl⟩

theorem test_witness_ChamberComesOnline (c : Chamber) :
    Asked tool 0x0D#8 .onln (u8 (c.val + 1)) ∧
    (let s := ask tool 0x0D#8 (u8 1)
     (s.ch 0).state = .offline ∧ s.cfg.enabled = true ∧ emoAsserted s = false ∧ anyFailed s 0 = false ∧
       (findEntry s (.chamber 0) .gaugeWide).isSome = true ∧ (findEntry s (.chamber 0) .throttle).isSome = true ∧
       findEntry s (.chamber 1) .gaugeWide = none) ∧
    (readyPc1.ch 0).state ≠ .offline ∧ (quiet.ch 0).state = .offline ∧ quiet.cfg.enabled = false :=
  ⟨⟨rfl, rfl, rfl, rfl⟩, by decide, by decide, by decide, by decide⟩

theorem test_witness_ChamberGoesOffline :
    (Asked readyPc1 0x0E#8 .offln (u8 1) ∧ ((ask readyPc1 0x0E#8 (u8 1)).ch 0).state = .ready) ∧
    (Asked tool 0x0E#8 .offln (u8 6) ∧ ((ask tool 0x0E#8 (u8 6)).ch 5).state = .offline) :=
  ⟨⟨⟨rfl, rfl, rfl, rfl⟩, rfl⟩, ⟨rfl, rfl, rfl, rfl⟩, rfl⟩

/-- The body of a STEP of a chamber number and a kind code without gas entries. -/
def stepBody (c k : Nat) : List Byte :=
  u8 c ++ u16 301 ++ u8 k ++ u8 1 ++ u8 0 ++ u8 0 ++ u32 20000 ++ u32 0 ++ u8 5 ++ u32 0 ++ u16 500 ++ u16 0 ++ u16 0 ++ u16 0
    ++ u32 1000 ++ u32 0 ++ u16 30 ++ u32 0 ++ u32 0 ++ u32 0 ++ u16 0 ++ u8 3

theorem test_witness_StepLoadsBehindRunningStep :
    let s := ask (runs .highVac (ctx .pumpdown)) 0x0F#8 (stepBody 1 1)
    Asked (runs .highVac (ctx .pumpdown)) 0x0F#8 .step (stepBody 1 1) ∧ stepLengthOk (stepBody 1 1) = true ∧
    bodyChamber (stepBody 1 1) = some 0 ∧ stepKindOf (stepBody 1 1) = some .pumpdown ∧ (s.ch 0).state = .running ∧
    (s.ch 0).slot (s.ch 0).loadPtr = none ∧ stepRefusal s 0 .pumpdown (stepBody 1 1) = none :=
  ⟨⟨rfl, rfl, rfl, rfl⟩, by decide, by decide, by decide, rfl, rfl, by decide⟩

theorem test_witness_RefusedStepChangesNothing (b : List Byte) :
    Asked tool 0x0F#8 .step b ∧ stepLengthOk [] = false ∧
    (stepLengthOk (stepBody 7 1) = true ∧ bodyChamber (stepBody 7 1) = none) ∧
    (stepLengthOk (stepBody 6 1) = true ∧ bodyChamber (stepBody 6 1) = some 5 ∧ (tool.ch 5).state = .offline) ∧
    ((readyPc1.ch 0).state = .ready ∧ (readyPc1.ch 0).slot (readyPc1.ch 0).loadPtr = none ∧ stepKindOf (stepBody 1 7) = none ∧
      stepKindOf (stepBody 1 3) = some .plasma ∧
      stepRefusal (quiet.modCh 0 (fun q => { q with state := .ready })) 0 .plasma (stepBody 1 3) = some .notConfigured) ∧
    (let s := (runs .highVac (ctx .pumpdown)).modCh 0 (fun q => { q with slotB := some (rec .vent) })
     (s.ch 0).state = .running ∧ (s.ch 0).slot (s.ch 0).loadPtr ≠ none) :=
  ⟨⟨rfl, rfl, rfl, rfl⟩, by decide, by decide, by decide, by decide, by decide⟩

theorem test_witness_StepStartsInReadyChamber :
    let s := ask (pc1 (fun q => { q with state := .ready })) 0x0F#8 (stepBody 1 6)
    (Asked (pc1 (fun q => { q with state := .ready })) 0x0F#8 .step (stepBody 1 6) ∧ stepLengthOk (stepBody 1 6) = true ∧
      bodyChamber (stepBody 1 6) = some 0 ∧ stepKindOf (stepBody 1 6) = some .vent ∧ (s.ch 0).state = .ready ∧
      (s.ch 0).slotA = none ∧ (s.ch 0).slotB = none ∧ (s.ch 0).loadPtr = (s.ch 0).runPtr ∧
      stepRefusal s 0 .vent (stepBody 1 6) = none) ∧
    (lidClosed s 0 = true ∧ (∀ v : ChamberValve, ((s.ch 0).valve v).isClosed = true) ∧ Out s 0) ∧
    (stepKindOf (stepBody 1 2) = some .stabilize ∧ stepRefusal s 0 .stabilize (stepBody 1 2) = none ∧
      Kind.isProcess .stabilize = true ∧ (s.ch 0).vac ≠ .highvac) ∧
    lidClosed (s.modInp (.lidClosed 0) (fun x => { x with qual := some false })) 0 = false := by
  refine ⟨⟨⟨rfl, rfl, rfl, rfl⟩, by decide, by decide, by decide, rfl, rfl, rfl, rfl, by decide⟩,
    ⟨by decide, fun v => by cases v <;> decide, by decide, by decide, by decide⟩, by decide, by decide⟩

theorem test_witness_StoredFieldsInRange :
    1 ≤ (tool.cfg.chambers.look 0).crossover ∧ (tool.cfg.chambers.look 0).minControl ≤ (tool.cfg.chambers.look 0).maxControl :=
  by decide

theorem test_witness_FlowArithmeticBounds : 0 < 100 ∧ 0 < 10 ∧ 500 ≤ Config.commandMax ∧ 0 < 1 ∧ (0 = 0 ∨ 500 ≤ 0) := by decide

theorem test_witness_AbortReturnsChamberToReady :
    (Asked (runs .highVac (ctx .pumpdown)) 0x10#8 .abrt (u8 1) ∧ ((runs .highVac (ctx .pumpdown)).ch 0).state = .running ∧
      ((runs .highVac (ctx .pumpdown)).ch 0).exec = some (ctx .pumpdown)) ∧
    (Asked (pc1 (fun q => { q with state := .held, hold := some 30000 })) 0x10#8 .abrt (u8 1) ∧
      ((pc1 (fun q => { q with state := .held, hold := some 30000 })).ch 0).state = .held) ∧
    (Asked tool 0x10#8 .abrt (u8 1) ∧ (tool.ch 0).state = .offline) :=
  ⟨⟨⟨rfl, rfl, rfl, rfl⟩, rfl, rfl⟩, ⟨⟨rfl, rfl, rfl, rfl⟩, rfl⟩, ⟨rfl, rfl, rfl, rfl⟩, rfl⟩

theorem test_witness_RoughingSuspended :
    (Asked roughing 0x11#8 .rsus (u8 1) ∧ (roughing.ch 0).exec = some (ctx .pumpdown) ∧ (0 : Chamber) ∉ roughing.gat.queue ∧
      (roughing.ch 0).state = .running ∧ (roughing.ch 0).phase.suspendable = true) ∧
    (Asked (runs .crossover (ctx .pumpdown)) 0x11#8 .rsus (u8 1) ∧
      ((runs .crossover (ctx .pumpdown)).ch 0).phase.suspendable = false) :=
  ⟨⟨⟨rfl, rfl, rfl, rfl⟩, rfl, by decide, rfl, rfl⟩, ⟨rfl, rfl, rfl, rfl⟩, rfl⟩

/-- PC1 suspended above crossover, the foreline free. -/
def suspended : State := (runs .roughSuspended (ctx .pumpdown)).modCh 0 (fun q => { q with pressure := some 200000 })

theorem test_witness_RoughingResumed :
    (Asked suspended 0x12#8 .rres (u8 1) ∧ (suspended.ch 0).exec = some (ctx .pumpdown) ∧ (suspended.ch 0).state = .running ∧
      (suspended.ch 0).phase = .roughSuspended ∧ atCrossover suspended 0 = false ∧ suspended.fla.state = .idle ∧
      suspended.fla.holder = none ∧ grantBlocked suspended = false ∧ suspended.fla.pause = false ∧
      (∀ d : Chamber, suspended.fla.waiting.look d = false) ∧ (0 : Chamber) ∈ suspended.cfg.chain ∧
      (suspended.ch 0).gate.isClosed = true ∧ (suspended.ch 0).vent.isClosed = true) ∧
    (let s := suspended.modFla (fun a => { a with state := .heldChamber, holder := some (.chamber 1) })
     Asked s 0x12#8 .rres (u8 1) ∧ (∃ d : Chamber, s.fla.holder = some (.chamber d)) ∧ s.fla.state = .heldChamber) ∧
    (Asked roughing 0x12#8 .rres (u8 1) ∧ (roughing.ch 0).phase ≠ .roughSuspended) :=
  ⟨⟨⟨rfl, rfl, rfl, rfl⟩, rfl, rfl, rfl, by decide, rfl, rfl, by decide, rfl, by decide, by decide, rfl, rfl⟩,
    ⟨⟨rfl, rfl, rfl, rfl⟩, ⟨1, rfl⟩, rfl⟩, ⟨rfl, rfl, rfl, rfl⟩, by decide⟩

/-- PC1 FAULTED. -/
def faultedPc1 : State := pc1 (fun q => { q with state := .faulted, cause := some .lid, vac := .roughed })

theorem test_witness_FaultCleared :
    (Asked faultedPc1 0x13#8 .clrf (u8 1) ∧ (faultedPc1.ch 0).state = .faulted ∧ emoAsserted faultedPc1 = false ∧
      foreOk faultedPc1 = true ∧ exhOk faultedPc1 = true ∧ allInstrumentsOk faultedPc1 0 = true ∧
      lidClosed faultedPc1 0 = true) ∧
    (Asked tool 0x13#8 .clrf (u8 1) ∧ (tool.ch 0).state ≠ .faulted) ∧
    (let s := faultedPc1.modInp (.lidClosed 0) (fun x => { x with qual := none })
     lidClosed s 0 = false ∧ (s.ch 0).vac = .roughed) :=
  ⟨⟨⟨rfl, rfl, rfl, rfl⟩, rfl, by decide, by decide, by decide, by decide, by decide⟩, ⟨⟨rfl, rfl, rfl, rfl⟩, by decide⟩,
    by decide⟩

/-- L1 in a state. -/
def lineAt (st : LineState) : State := tool.modLine 0 (fun x => { x with state := st })

theorem test_witness_LinePumpoutListsLine (l : Line) :
    Asked tool 0x14#8 .line (u8 (l.val + 1) ++ u8 0) ∧ (tool.ln 1).state = .unconfigured ∧
    (let s := readyPc1.modCh 0 (fun q => { q with state := .held, holdings := [{ line := 0, flow := 1 }] })
     (s.ln 0).state = .ready ∧ allocated s 0 ≠ 0) ∧
    ((lineAt .pumpingOut).ln 0).state = .pumpingOut ∧
    (let s := (lineAt .lockedOut).modInp (.cabOk 0) (fun x => { x with qual := some false })
     (s.ln 0).state = .lockedOut ∧ lineCabinetOk s 0 = false) ∧
    ((tool.ln 0).state = .ready ∧ allocated tool 0 = 0 ∧ tool.gat.toFla = [] ∧ tool.fla.list = [] ∧ tool.fla.toGat = [] ∧
      tool.fla.state = .idle ∧ grantBlocked tool = false ∧ (∀ d : Chamber, tool.fla.waiting.look d = false) ∧
      tool.fla.pause = false ∧ 0 < pumpTimeMs tool 0) ∧
    roughing.fla.state ≠ .idle ∧ ((roughing.ln 0).state = .ready ∧ allocated roughing 0 = 0) :=
  ⟨⟨rfl, rfl, rfl, rfl⟩, by decide, by decide, by decide, by decide, by decide, by decide, by decide⟩

theorem test_witness_LineLockoutFaultsHolders (l : Line) :
    Asked tool 0x14#8 .line (u8 (l.val + 1) ++ u8 1) ∧ ((lineAt .lockedOut).ln 0).state = .lockedOut ∧
    (tool.ln 1).state = .unconfigured ∧
    (let s := readyPc1.modCh 0 (fun q => { q with state := .held, holdings := [{ line := 0, flow := 1 }] })
     Asked s 0x14#8 .line (u8 1 ++ u8 1) ∧ (s.ln 0).state ≠ .unconfigured ∧ (s.ln 0).state ≠ .lockedOut ∧
       flowOn (s.ch 0).holdings 0 ≠ none ∧ (s.ch 0).state = .held ∧ flowOn (s.ch 1).holdings 0 = none ∧ Out s 1) :=
  ⟨⟨rfl, rfl, rfl, rfl⟩, by decide, by decide, ⟨rfl, rfl, rfl, rfl⟩, by decide, by decide, by decide, by decide, by decide,
    by decide, by decide, by decide⟩

theorem test_witness_LineUnlockReturnsLine (l : Line) :
    Asked (lineAt .lockedOut) 0x14#8 .line (u8 (l.val + 1) ++ u8 2) ∧ ((lineAt .lockedOut).ln 0).state = .lockedOut ∧
    lineCabinetOk (lineAt .lockedOut) 0 = true ∧ (lineAt .lockedOut).gat.queue = [] ∧
    ((lineAt .ready).ln 0).state ≠ .lockedOut ∧ ((lineAt .lockedOut).ln 11).state = .unconfigured :=
  ⟨⟨rfl, rfl, rfl, rfl⟩, by decide, by decide, by decide, by decide, by decide⟩

theorem test_witness_PollTableEnabledAndDisabled (x y z : Byte) (w : Nat) :
    (Asked quiet 0x0C#8 .pten (u8 0 ++ u8 64 ++ u16 w) ∧ 8 ≤ 64 ∧ 64 ≤ 64 ∧ 100 ≤ 2000 ∧ gateOpen quiet = true ∧
      quiet.cfg.enabled = false) ∧
    (Asked tool 0x0C#8 .pten (u8 0 ++ u8 8 ++ u16 100) ∧ tool.cfg.enabled = true) ∧
    (Asked tool 0x0C#8 .pten (u8 1 ++ [x, y, z]) ∧ gateOpen tool = true ∧ allOffline tool = true) ∧
    allOffline readyPc1 = false :=
  ⟨⟨⟨rfl, rfl, rfl, rfl⟩, by decide⟩, ⟨⟨rfl, rfl, rfl, rfl⟩, by decide⟩, ⟨⟨rfl, rfl, rfl, rfl⟩, by decide⟩, by decide⟩

/-- Of entries 0 to 4 with period 5, entry 0 heads the first frame and entry 4 waits four frames. -/
theorem test_witness_PollTableEnabledAndDisabled_schedule :
    let s := (ask tool 0x0C#8 (u8 0 ++ u8 8 ++ u16 100)).modCfg (fun g => { g with enabled := false })
    let due := (allIx 96).filter (fun e : EntryIx =>
      (s.cfg.poll.look e).used && decide (e.val % (s.cfg.poll.look e).period = 0))
    Asks s .pten (fr 0x0C#8 (u8 0 ++ u8 8 ++ u16 100)) ∧ s.cfg.enabled = false ∧ gateOpen s = true ∧
    (s.cfg.poll.look 0).used = true ∧ due.head? = some 0 ∧ (s.cfg.poll.look 4).used = true ∧ due.head? ≠ some 4 :=
  ⟨⟨rfl, rfl, rfl⟩, by decide⟩

theorem test_witness_FullResetValues_emo :
    (∃ t, exec .fullReset quiet = .next t ∧ (t.inp .emo).raw = false) ∧
    (∃ t, exec .fullReset (quiet.modInp .emo (fun x => { x with raw := true })) = .next t ∧ (t.inp .emo).raw = true) :=
  ⟨⟨_, rfl, by decide⟩, _, rfl, by decide⟩

theorem test_witness_SoftResetOfChambersAndFlows : Asked roughing 0x19#8 .rset [] := ⟨rfl, rfl, rfl, rfl⟩

theorem test_witness_SoftResetOfOtherBlocks :
    Asked roughing 0x19#8 .rset [] ∧ roughing.svl.tx = none ∧ roughing.fla.toGat = [] ∧ (roughing.ln 0).state ≠ .pumpingOut ∧
    (roughing.cfg.poll.look 1).used = true := ⟨⟨rfl, rfl, rfl, rfl⟩, by decide⟩

/-! ## Witnesses: the Supervisory Link -/

theorem test_witness_FrameRoundTrip : Svl.reset.assembler = none ∧ Svl.reset.gap = none ∧
    Svl.reset.buffer.length < Config.requestBufferSize ∧ (List.replicate 240 0xA5#8).length ≤ Config.maxLen :=
  ⟨rfl, rfl, by decide, by rw [List.length_replicate]; decide⟩

/-- The bytes of an IDENT frame after its start byte, without the last. -/
def identBytes : List Byte := ((frameBytes 0x01#8 9#8 []).drop 1).dropLast

/-- Its last byte. -/
def identLast : Byte := (frameBytes 0x01#8 9#8 []).getLast?.getD 0#8

/-- The assembler has collected these bytes. -/
def assembling (bs : List Byte) (s : State) : State := s.modSvl (fun v => { v with assembler := some bs, gap := some 2 })

theorem test_witness_LinkReceivesAndTransmits :
    (Served quiet ∧ quiet.svl.assembler = none) ∧
    (Served (assembling identBytes quiet) ∧ (assembling identBytes quiet).svl.assembler = some identBytes ∧ identBytes ≠ [] ∧
      asmComplete (identBytes ++ [identLast]) = true ∧ crcMatches (identBytes ++ [identLast]) = true ∧
      crcMatches (identBytes ++ [identLast ^^^ 1#8]) = false ∧ asmComplete (identBytes ++ [identLast ^^^ 1#8]) = true) ∧
    (timerDue { assembling [] quiet with now := 2 } (some 2) = true ∧ timerDue { assembling [] quiet with now := 1 } (some 2)
      = false) ∧
    ((withEvents 1).svl.reply = none ∧ (withEvents 1).svl.events = [{ tag := 0, event := .mark 0 }]) ∧
    ((quiet.modSvl (fun v => { v with reply := some { tag := 0#8, body := .nak .state } })).svl.reply ≠ none) :=
  ⟨⟨rfl, rfl⟩, ⟨rfl, rfl, by decide +kernel⟩, by decide, by decide, by decide⟩

theorem test_witness_MalformedRequestsRefused :
    (nextRequest (ask quiet 0x1A#8 []) = some (fr 0x1A#8 []) ∧ reqKindOf (fr 0x1A#8 []).kind = none) ∧
    (nextRequest (ask quiet 0x01#8 [0#8]) = some (fr 0x01#8 [0#8]) ∧ reqKindOf (fr 0x01#8 [0#8]).kind = some .ident ∧
      lengthFits .ident [0#8] = false) ∧
    (Asked tool 0x0D#8 .onln [7#8] ∧ 6 < field [7#8] 0 1) ∧ (Asked tool 0x0D#8 .onln [0#8] ∧ field [0#8] 0 1 = 0) ∧
    (Asked tool 0x14#8 .line [13#8, 2#8] ∧ 12 < field [13#8, 2#8] 0 1 ∧ field [13#8, 2#8] 1 1 = 2) ∧
    (Asked tool 0x14#8 .line [12#8, 3#8] ∧ 2 < field [12#8, 3#8] 1 1) ∧
    (Asked tool 0x03#8 .cfgln (lineBody 0 { lineRec 0 with gcf := 99 }) ∧
      field (lineBody 0 { lineRec 0 with gcf := 99 }) 4 2 < 100) ∧
    (Asked tool 0x04#8 .cfgcx [0#8, 8#8, 0#8] ∧ 7 < field [0#8, 8#8, 0#8] 1 1) ∧
    (Asked tool 0x06#8 .cfgmap (u8 6 ++ u8 9 ++ mapBytes (mapAt none)) ∧
      8 < field (u8 6 ++ u8 9 ++ mapBytes (mapAt none)) 1 1) ∧
    (Asked tool 0x06#8 .cfgmap (u8 6 ++ u8 8 ++ mapBytes { mapAt none with ramp := 10001 }) ∧
      10000 < field (u8 6 ++ u8 8 ++ mapBytes { mapAt none with ramp := 10001 }) 7 2) ∧
    (Asked tool 0x07#8 .cfgpt (u8 96 ++ pollBytes (entry 1 1 0)) ∧ 95 < field (u8 96 ++ pollBytes (entry 1 1 0)) 0 1 ∧
      pollInRange (pollOf (u8 95 ++ pollBytes (entry 128 1 0))) = false) ∧
    (Asked tool 0x09#8 .cfgiq (u8 8 ++ u8 7 ++ u32 2) ∧ 8 ≤ field (u8 8 ++ u8 7 ++ u32 2) 0 1 ∧
      6 < field (u8 8 ++ u8 7 ++ u32 2) 1 1) ∧
    (Asked tool 0x0C#8 .pten (u8 2 ++ u8 40 ++ u16 500) ∧ 1 < field (u8 2 ++ u8 40 ++ u16 500) 0 1 ∧
      field (u8 0 ++ u8 65 ++ u16 500) 0 1 = 0 ∧ 64 < field (u8 0 ++ u8 65 ++ u16 500) 1 1) := by
  refine ⟨⟨rfl, rfl⟩, ⟨rfl, rfl, rfl⟩, ⟨?_, by decide⟩, ⟨?_, by decide⟩, ⟨?_, by decide⟩, ⟨?_, by decide⟩, ⟨?_, by decide⟩,
    ⟨?_, by decide⟩, ⟨?_, by decide⟩, ⟨?_, by decide⟩, ⟨?_, by decide⟩, ⟨?_, by decide⟩, ?_, by decide⟩ <;>
    exact ⟨rfl, rfl, rfl, rfl⟩

/-! ## Witnesses: inputs, notices, arcs, valves -/

theorem test_witness_RawChangeRunsQualificationTimer :
    (Served quiet ∧ (quiet.inp .foreOk).raw = true ∧ (quiet.inp .foreOk).raw ≠ false ∧ ¬(Input.foreOk = .emo ∧ false = true)) ∧
    quiet.iiu.arcRaw.look 5 = false ∧ (quiet.modIiu (fun u => { u with arcRaw := u.arcRaw.put 5 true })).iiu.arcRaw.look 5 = true :=
  ⟨⟨rfl, by decide⟩, by decide, by decide⟩

/-- EMO with a raw and a qualified level. -/
def emoAt (raw : Bool) (qual : Option Bool) (timer : Timer) : State :=
  tool.modInp .emo (fun _ => { raw := raw, qual := qual, timer := timer })

theorem test_witness_EmoAssertionActsAtOnce :
    Served tool ∧ ((tool.inp .emo).raw = false ∧ (tool.inp .emo).qual = some false) ∧
    ((emoAt true (some true) none).inp .emo).raw = true ∧
    ((emoAt false (some true) (some 5)).inp .emo).qual = some true ∧ ((emoAt false none (some 2)).inp .emo).qual = none :=
  ⟨rfl, by decide, by decide, by decide, by decide⟩

theorem test_witness_QualificationExpiryQualifies :
    Served tool ∧ timerDue tool (tool.inp .exhOk).timer = false ∧
    (timerDue { emoAt false (some true) (some 5) with now := 5 } ((emoAt false (some true) (some 5)).inp .emo).timer = true ∧
      ((emoAt false (some true) (some 5)).inp .emo).raw = false) ∧
    (let s := { State.reset with now := 2 }
     Served s ∧ timerDue s (s.inp .exhOk).timer = true ∧ Input.exhOk ≠ .emo) :=
  ⟨rfl, by decide, by decide, rfl, by decide⟩

/-- One notice waits. -/
def told (o : NoticeOwner) (i : Input) (l : Bool) (s : State) : State :=
  s.modIiu (fun u => { u with notices := [{ owner := o, input := i, level := l }] })

/-- The notice that waits is the one asked for. -/
def Told (o : NoticeOwner) (i : Input) (l : Bool) (s : State) : Prop :=
  Served (told o i l s) ∧ waitingNotice o i (told o i l s) = some { owner := o, input := i, level := l }

/-- PC1 in ETCH of a step that ends by endpoint, its mask run out. -/
def etching : State := runs .etch { ctx .plasma with maskDone := true }

/-- L1 pumping out, its pump valve open. -/
def pumpingL1 : State :=
  { (lineAt .pumpingOut).modFla (fun a =>
      { a with
        state := .heldPumpout, holder := some (.line 0), list := [{ line := 0, acc := 4000 }], progress := some 100,
        pumpMs := 10000, pumps := a.pumps.put 0 { cmd := true, pos := .opened } }) with now := 6100 }

theorem test_witness_NoticesOfLossFaultChambers :
    waitingNotice (.csq 0) .emo quiet = none ∧ Told .svl .cfgProtect true quiet ∧
    (Told (.csq 0) .emo true tool ∧ (tool.ch 0).state = .offline ∧ (tool.ch 0).exec = none) ∧
    (Told (.csq 0) .emo true readyPc1 ∧ (readyPc1.ch 0).state ≠ .offline ∧ (readyPc1.ch 0).state ≠ .faulted) ∧
    (Told (.csq 0) .foreOk false roughing ∧ holdsForeline roughing 0 = true) ∧
    (let s := etching.modCh 0 (fun q => { q with rfEn := true })
     Told (.csq 0) .exhOk false s ∧ (s.ch 0).state = .running ∧ rfOn s 0 = true) ∧
    (Told (.csq 0) (.lidClosed 0) false readyPc1 ∧ (readyPc1.ch 0).vac = .highvac) ∧
    (let s := readyPc1.modCh 0 (fun q => { q with gate := { cmd := true, pos := .opened } })
     Told (.csq 0) (.turboOk 0) false s ∧ (s.ch 0).gate.countsOpen = true) ∧
    Told (.csq 0) (.endpoint 0) false etching ∧
    (Told (.csq 0) (.endpoint 0) true etching ∧ (etching.ch 0).inPhase .etch = true ∧
      0 < (etching.now - 100) * (rec .plasma).overetchPct) ∧
    (Told .fla .emo true roughing ∧ ∀ l : Line, roughing.fla.holder ≠ some (.line l)) ∧
    (Told .fla .emo true pumpingL1 ∧ pumpingL1.fla.holder = some (.line 0) ∧
      (pumpingL1.fla.pumps.look 0).countsOpen = true) ∧
    (Told .gat (.cabOk 0) false tool ∧ (tool.cfg.lines.look 0).any (fun r => decide (r.cabinet = 0)) = true ∧
      (tool.ln 0).state = .ready) := by
  refine ⟨rfl, ?_, ⟨?_, rfl, rfl⟩, ⟨?_, by decide, by decide⟩, ⟨?_, by decide⟩, ⟨?_, rfl, by decide⟩, ⟨?_, rfl⟩, ⟨?_, rfl⟩, ?_,
    ⟨?_, rfl, by decide⟩, ⟨?_, by decide⟩, ⟨?_, rfl, rfl⟩, ?_, by decide, by decide⟩ <;> exact ⟨rfl, rfl⟩

theorem test_witness_ArcsMergeAndCount :
    (let s := quiet.modIiu (fun u => { u with merge := u.merge.put 0 (some 1) })
     Served s ∧ (s.iiu.merge.look 0).isSome = true ∧ timerDue { s with now := 1 } (s.iiu.merge.look 0) = true ∧
       timerDue s (s.iiu.merge.look 0) = false) ∧
    (Served quiet ∧ quiet.iiu.merge.look 0 = none ∧ ((quiet.ch 0).running && (quiet.ch 0).phase.countsArcs) = false) ∧
    (((etching.ch 0).running && (etching.ch 0).phase.countsArcs) = true ∧ etching.iiu.merge.look 0 = none ∧
      min ((ctx .plasma).arcs + 1) Config.arcCountMax ≤ (rec .plasma).arcLimit ∧
      (rec .plasma).arcLimit < min (3 + 1) Config.arcCountMax ∧ 0 < (rec .plasma).arcLimit) :=
  ⟨⟨rfl, by decide⟩, ⟨rfl, by decide⟩, by decide⟩

theorem test_witness_ValveTravelsEnd :
    (Served roughing ∧ ((roughing.ch 0).valve .roughFast).travelDue roughing = false) ∧
    (let s := { tool.modCh 0 (fun q => { q with vent := { cmd := false, pos := .closing 200 } }) with now := 200 }
     ((s.ch 0).valve .vent).travelDue s = true ∧ (s.ch 0).state ≠ .running ∧ (s.ch 0).exec = none ∧ s.fla.state ≠ .handover) ∧
    (let s := (runs .crossover (ctx .pumpdown)).modCh 0 (fun q => { q with gate := { cmd := true, pos := .opening 1000 } })
     (s.ch 0).inPhase .crossover = true ∧ (s.ch 0).exec = some (ctx .pumpdown) ∧ Out s 0 ∧
       (s.ch 0).gate = { cmd := true, pos := .opening 1000 } ∧ 1000 ≤ s.now) ∧
    (let s := { pumpingL1.modFla (fun a =>
        { a with state := .handover, holder := none, pumps := a.pumps.put 0 { cmd := false, pos := .closing 6100 } }) with
        now := 6100 }
     (s.fla.pumps.look 0).travelDue s = true ∧ s.fla.state = .handover ∧
       forelineValveOpen (s.modFla (fun a => { a with pumps := a.pumps.put 0 (a.pumps.look 0).expire })) = false) ∧
    ((pumpingL1.fla.pumps.look 0).travelDue pumpingL1 = false) :=
  ⟨⟨rfl, by decide⟩, by decide, ⟨by decide, rfl, ⟨by decide, by decide, by decide⟩, by decide⟩, by decide, by decide⟩

/-! ## Witnesses: timers of the executing step -/

/-- A context with every timer run out at 1,000 ms. -/
def dueCtx (k : Kind) : StepCtx :=
  { ctx k with
    baseTimer := some 1000, ventTimer := some 1000, purgeTimer := some 1000, settleLimit := some 1000, settleTimer := some 1000,
    duration := some 1000, excursion := some 1000, strikeTimer := some 1000, maskTimer := some 1000,
    overetchTimer := some 1000, cycleTimer := some 1000 }

theorem test_witness_ExpiredLimitsFaultChamber :
    (Served roughOut ∧ (roughOut.ch 0).state = .running ∧ roughDue roughOut 0 = true) ∧
    Expired (runs .highVac (dueCtx .pumpdown)) 0 .highVac (dueCtx .pumpdown) (dueCtx .pumpdown).baseTimer ∧
    Expired (runs .venting (dueCtx .vent)) 0 .venting (dueCtx .vent) (dueCtx .vent).ventTimer ∧
    (let s := (runs .admission (dueCtx .purge)).modCh 0 (fun q => { q with admitTimer := some 1000 })
     Expired s 0 .admission (dueCtx .purge) (s.ch 0).admitTimer) ∧
    Expired (runs .settle (dueCtx .plasma)) 0 .settle (dueCtx .plasma) (dueCtx .plasma).settleLimit ∧
    Expired (runs .strike (dueCtx .plasma)) 0 .strike (dueCtx .plasma) (dueCtx .plasma).strikeTimer ∧
    (Expired (runs .etch (dueCtx .plasma)) 0 .etch (dueCtx .plasma) (dueCtx .plasma).duration ∧
      (dueCtx .plasma).record.endMode = .endpoint) ∧
    timerDue (runs .etch (dueCtx .plasma)) (dueCtx .plasma).excursion = true ∧
    (let s := { (pc1 (fun q => { q with state := .held })).modChan 0 0 (fun x => { x with deviation := some 0 }) with now := 3000 }
     deviationDue s 0 0 = true ∧ (s.ch 0).state = .held) ∧
    (let s := { readyPc1.modChan 0 0 (fun x => { x with deviation := some 0 }) with now := 3000 }
     deviationDue s 0 0 = true ∧ (s.ch 0).state ≠ .running ∧ (s.ch 0).state ≠ .held) :=
  ⟨⟨rfl, by decide⟩, ⟨rfl, rfl, rfl⟩, ⟨rfl, rfl, rfl⟩, ⟨rfl, rfl, rfl⟩, ⟨rfl, rfl, rfl⟩, ⟨rfl, rfl, rfl⟩,
    ⟨⟨rfl, rfl, rfl⟩, rfl⟩, rfl, by decide, by decide⟩

theorem test_witness_RunningTimersDoNothing :
    Served (runs .etch (ctx .plasma)) ∧ timerDue (runs .etch (ctx .plasma)) ((runs .etch (ctx .plasma)).ch 0).hold = false ∧
    roughDue (runs .etch (ctx .plasma)) 0 = false ∧
    timerDue (runs .etch (ctx .plasma)) (((runs .etch (ctx .plasma)).ch 0).exec.bind (·.duration)) = false ∧
    timerDue { runs .etch (dueCtx .plasma) with now := 999 } (((runs .etch (dueCtx .plasma)).ch 0).exec.bind (·.duration)) = false ∧
    deviationDue tool 0 7 = false :=
  ⟨rfl, by decide, by decide, by decide, by decide, by decide⟩

theorem test_witness_CompletedStepHoldsChamber :
    (Served (runs .steady (dueCtx .stabilize)) ∧
      Expired (runs .steady (dueCtx .stabilize)) 0 .steady (dueCtx .stabilize) (dueCtx .stabilize).duration ∧
      Kind.isProcess .stabilize = true ∧
      (dueCtx .stabilize).slot = ((runs .steady (dueCtx .stabilize)).ch 0).runPtr.other ∧
      ((runs .steady (dueCtx .stabilize)).ch 0).slot ((runs .steady (dueCtx .stabilize)).ch 0).runPtr = none ∧
      0 < ((runs .steady (dueCtx .stabilize)).cfg.chambers.look 0).holdLimitS) ∧
    Expired (runs .purging (dueCtx .purge)) 0 .purging (dueCtx .purge) (dueCtx .purge).duration ∧
    (let e : StepCtx := { dueCtx .plasma with record := { rec .plasma with endMode := .time } }
     Expired (runs .etch e) 0 .etch e e.duration ∧ e.record.endMode = .time) ∧
    Expired (runs .overetch (dueCtx .plasma)) 0 .overetch (dueCtx .plasma) (dueCtx .plasma).overetchTimer ∧
    (let e : StepCtx := { dueCtx .cycle with cycles := 1 }
     Expired (runs .cyclingB e) 0 .cyclingB e e.cycleTimer ∧ e.cycles + 1 = e.record.cycleCount) ∧
    (let s := { pc1 (fun q => { q with state := .held, hold := some 30000 }) with now := 30000 }
     Served s ∧ (s.ch 0).state = .held ∧ timerDue s (s.ch 0).hold = true) :=
  ⟨⟨rfl, ⟨rfl, rfl, rfl⟩, by decide⟩, ⟨rfl, rfl, rfl⟩, ⟨⟨rfl, rfl, rfl⟩, rfl⟩, ⟨rfl, rfl, rfl⟩, ⟨⟨rfl, rfl, rfl⟩, rfl⟩, rfl,
    by decide⟩

theorem test_witness_PurgeAndSettleGoOn :
    (Served (runs .manifoldPurge (dueCtx .plasma)) ∧ Out (runs .manifoldPurge (dueCtx .plasma)) 0 ∧
      Expired (runs .manifoldPurge (dueCtx .plasma)) 0 .manifoldPurge (dueCtx .plasma) (dueCtx .plasma).purgeTimer ∧
      exhOk (runs .manifoldPurge (dueCtx .plasma)) = true) ∧
    (Expired (runs .manifoldPurge (dueCtx .purge)) 0 .manifoldPurge (dueCtx .purge) (dueCtx .purge).purgeTimer) ∧
    Expired (runs .settle (dueCtx .stabilize)) 0 .settle (dueCtx .stabilize) (dueCtx .stabilize).settleTimer ∧
    (Expired (runs .settle (dueCtx .cycle)) 0 .settle (dueCtx .cycle) (dueCtx .cycle).settleTimer ∧
      emoAsserted (runs .settle (dueCtx .cycle)) = false ∧ lidClosed (runs .settle (dueCtx .cycle)) 0 = true ∧
      exhOk (runs .settle (dueCtx .cycle)) = true) ∧
    exhOk ((runs .settle (dueCtx .cycle)).modInp .exhOk (fun x => { x with qual := some false })) = false ∧
    lidClosed ((runs .settle (dueCtx .cycle)).modInp (.lidClosed 0) (fun x => { x with qual := some false })) 0 = false ∧
    emoAsserted ((runs .settle (dueCtx .cycle)).modInp .emo (fun x => { x with qual := some true })) = true :=
  ⟨⟨rfl, ⟨by decide, by decide, by decide⟩, ⟨rfl, rfl, rfl⟩, by decide⟩, ⟨rfl, rfl, rfl⟩, ⟨rfl, rfl, rfl⟩,
    ⟨⟨rfl, rfl, rfl⟩, by decide⟩, by decide, by decide, by decide⟩

theorem test_witness_EndpointAndCycleGoOn :
    (Served (runs .etch (dueCtx .plasma)) ∧
      Expired (runs .etch (dueCtx .plasma)) 0 .etch (dueCtx .plasma) (dueCtx .plasma).maskTimer ∧
      endpointAsserted (runs .etch (dueCtx .plasma)) 0 = false) ∧
    (endpointAsserted ((runs .etch (dueCtx .plasma)).modInp (.endpoint 0) (fun x => { x with qual := some true })) 0 = true ∧
      (dueCtx .plasma).etchAt = some 100 ∧ 0 < (1000 - 100) * (rec .plasma).overetchPct) ∧
    (exhOk (runs .cyclingA (dueCtx .cycle)) = true ∧
      Expired (runs .cyclingA (dueCtx .cycle)) 0 .cyclingA (dueCtx .cycle) (dueCtx .cycle).cycleTimer) ∧
    (Expired (runs .cyclingB (dueCtx .cycle)) 0 .cyclingB (dueCtx .cycle) (dueCtx .cycle).cycleTimer ∧
      (dueCtx .cycle).cycles + 1 ≠ (dueCtx .cycle).record.cycleCount) :=
  ⟨⟨rfl, ⟨rfl, rfl, rfl⟩, by decide⟩, by decide, ⟨by decide, rfl, rfl, rfl⟩, ⟨rfl, rfl, rfl⟩, by decide⟩

/-! ## Witnesses: pump-outs, grants, admission, instruments -/

theorem test_witness_PumpoutsCompleteOrAreRemoved :
    (Served pumpingL1 ∧ completedLine pumpingL1 = some 0) ∧ completedLine { pumpingL1 with now := 6099 } = none ∧
    firstMsg 0 pumpingL1.gat.toFla ≠ some .removal ∧
    (let s := pumpingL1.modGat (fun g => { g with toFla := [(.removal, 0)] })
     Served s ∧ firstMsg 0 s.gat.toFla = some .removal ∧ firstMsg 0 (dropFirst 0 s.gat.toFla) ≠ some .listing ∧
       s.fla.holder = some (.line 0)) :=
  ⟨⟨rfl, by decide⟩, by decide, by decide, rfl, by decide⟩

theorem test_witness_PumpMessagesMoveLine :
    (let s := (lineAt .pumpoutPending).modFla (fun a => { a with toGat := [(.begun, 0)] })
     Served s ∧ firstMsg 0 s.fla.toGat = some .begun ∧ (s.ln 0).state = .pumpoutPending ∧ s.gat.queue = []) ∧
    (let s := (lineAt .pumpingOut).modFla (fun a => { a with toGat := [(.stopped, 0), (.begun, 0)] })
     firstMsg 0 s.fla.toGat = some .stopped ∧ (s.ln 0).state = .pumpingOut) ∧
    (let s := (lineAt .lockedOut).modFla (fun a => { a with toGat := [(.complete, 0)] })
     firstMsg 0 s.fla.toGat = some .complete ∧ (s.ln 0).state ≠ .pumpingOut) ∧
    firstMsg 0 tool.fla.toGat ≠ some .begun :=
  ⟨⟨rfl, by decide⟩, by decide, by decide, by decide⟩

theorem test_witness_GrantGoesToFirstInChain :
    (let s := tool.modFla (fun a => { a with waiting := (a.waiting.put 2 true).put 5 true })
     grantBlocked s = false ∧ s.cfg.chain = [0, 1] ++ 2 :: [3, 4, 5] ∧ (∀ d ∈ [(0 : Chamber), 1], s.fla.waiting.look d = false) ∧
       s.fla.waiting.look 2 = true) ∧
    (grantBlocked State.reset = true) ∧ ((∀ d ∈ tool.cfg.chain, tool.fla.waiting.look d = false) ∧ tool.fla.list = []) := by decide

theorem test_witness_AdmissionStaysWithinCapacity :
    admissible tool 0 { wants := [{ line := 0, flow := 1000 }], purge := false } = true ∧
    ((([{ line := 0, flow := 1000 }] : List Holding)).map (·.line)).Nodup ∧
    admissible tool 0 { wants := [{ line := 0, flow := 1001 }], purge := false } = false := by decide

theorem test_witness_InstrumentFrameBegins :
    Served tool ∧ frameMayBegin tool = false ∧ frameMayBegin { tool with now := 10 } = true := ⟨rfl, by decide, by decide⟩

/-- The first transaction, of an entry. -/
def txnOf (e : EntryIx) : Txn := { number := 0, entry := e, request := [], discarded := false, beforeStrike := false }

/-- A transaction of an entry in flight. -/
def flying (e : EntryIx) (s : State) : State := s.modIlc (fun i => { i with built := 1, inFlight := some (txnOf e) })

/-- A reply of the first transaction with its check value. -/
def replyOf (bs : List Byte) : BusReply := { txn := 0, bytes := bs ++ crcBytes bs }

theorem test_witness_FlowReadingIntegrates :
    Served (flying 3 tool) ∧ ownerOf ((flying 3 tool).cfg.poll.look 3).owner = some (.chamber 0) ∧
    roleOf ((flying 3 tool).cfg.poll.look 3).role = some (.flow 0) ∧
    ((flying 3 tool).cfg.maps.look 0 |>.look 0).line = some 0 ∧ ((flying 3 tool).cfg.lines.look 0).isSome = true ∧
    judgeReply ((flying 3 tool).cfg.poll.look 3) (.flow 0) (replyOf (u8 4 ++ u8 0 ++ u16 9259)).bytes = some (u16 9259) :=
  ⟨rfl, by decide, by decide, by decide, by decide, by decide +kernel⟩

theorem test_witness_MissedRepliesFailInstrument :
    (Served tool ∧ tool.ilc.inFlight = none) ∧
    (let s := flying 1 readyPc1
     Served s ∧ ownerOf (s.cfg.poll.look 1).owner = some (.chamber 0) ∧ roleOf (s.cfg.poll.look 1).role = some .gaugeWide ∧
       judgeReply (s.cfg.poll.look 1) .gaugeWide [] = none ∧ (s.pollDyn 1).state ≠ .failed ∧
       (s.pollDyn 1).misses + 1 < Config.missLimit ∧ (s.ch 0).state ≠ .offline ∧ (s.ch 0).state ≠ .faulted) ∧
    (let s := (flying 1 readyPc1).modPoll 1 (fun x => { x with misses := 2 })
     Config.missLimit ≤ (s.pollDyn 1).misses + 1 ∧ (s.pollDyn 1).state ≠ .failed) ∧
    (((flying 1 tool).modPoll 1 (fun x => { x with state := .failed, misses := 3 })).pollDyn 1).state = .failed :=
  ⟨⟨rfl, rfl⟩, ⟨rfl, by decide⟩, by decide, by decide⟩

/-! ## Witnesses of further clauses -/

/-- R172: the boundary numbers of each RDCFG kind. -/
theorem test_witness_ReadingRequestsAnswer_refused (x : Byte) :
    (∀ b ∈ [((0#8 : Byte), (0#8 : Byte), (0#8 : Byte)), (0#8, 13#8, 0#8), (1#8, 8#8, 0#8), (2#8, 7#8, 0#8), (3#8, 1#8, 9#8),
        (4#8, 96#8, 0#8), (6#8, 11#8, 1#8), (6#8, 8#8, 0#8), (6#8, 10#8, 7#8)],
      Asked quiet 0x0B#8 .rdcfg [b.1, b.2.1, b.2.2] ∧
      (b.1.toNat = 0 ∧ (b.2.1.toNat = 0 ∨ 12 < b.2.1.toNat) ∨ b.1.toNat = 1 ∧ 7 < b.2.1.toNat ∨
        b.1.toNat = 2 ∧ (b.2.1.toNat = 0 ∨ 6 < b.2.1.toNat) ∨
        b.1.toNat = 3 ∧ (b.2.1.toNat = 0 ∨ 6 < b.2.1.toNat ∨ b.2.2.toNat = 0 ∨ 8 < b.2.2.toNat) ∨
        b.1.toNat = 4 ∧ 95 < b.2.1.toNat ∨
        b.1.toNat = 6 ∧ (10 < b.2.1.toNat ∨ 8 ≤ b.2.1.toNat ∧ (b.2.2.toNat = 0 ∨ 6 < b.2.2.toNat)))) ∧
    (inputCode .cfgProtect).1 < 8 ∧ Asked quiet 0x0B#8 .rdcfg (u8 6 ++ u8 (inputCode .cfgProtect).1 ++ [x]) := by
  refine ⟨?_, by decide, rfl, rfl, rfl, rfl⟩
  simp only [List.forall_mem_cons, List.not_mem_nil, false_implies, implies_true, and_true]
  refine ⟨?_, ?_, ?_, ?_, ?_, ?_, ?_, ?_, ?_⟩ <;> exact ⟨⟨rfl, rfl, rfl, rfl⟩, by decide⟩

theorem test_witness_ForelineAndInputSettingsWritten_chain :
    (let chain : List Chamber := [0, 1, 2, 3, 4, 4]
     Asked quiet 0x08#8 .cfgfl (chain.flatMap (fun c => u8 (c.val + 1)) ++ List.replicate 10 0#8) ∧ chain.length = 6 ∧
       ¬chain.Nodup) ∧
    (Asked quiet 0x08#8 .cfgfl (List.replicate 16 7#8) ∧ (7#8 : Byte) ∈ (List.replicate 16 7#8).take 6 ∧ 6 < (7#8 : Byte).toNat) :=
  ⟨⟨⟨rfl, rfl, rfl, rfl⟩, by decide⟩, ⟨rfl, rfl, rfl, rfl⟩, by decide⟩

/-- PC1's deviation timer at the flow fault time's 3,000 ms. -/
def deviates (f : Csq → Csq) : State := { (pc1 f).modChan 0 0 (fun x => { x with deviation := some 0 }) with now := 3000 }

theorem test_witness_ChamberParametersWritten_deviation (f : Csq → Csq) :
    Asked (deviates f) 0x05#8 .cfgch (paramBody 0 ChamberParams.default) ∧
    (let u := (ask (deviates (fun q => { q with state := .held })) 0x05#8 (paramBody 0 ChamberParams.default)).modCfg
       (fun g => { g with chambers := g.chambers.put 0 ChamberParams.default })
     deviationDue u 0 0 = true ∧ (u.ch 0).state = .held ∧ (u.ch 0).running = false) ∧
    (let u := (ask (deviates id) 0x05#8 (paramBody 0 ChamberParams.default)).modCfg
       (fun g => { g with chambers := g.chambers.put 0 ChamberParams.default })
     deviationDue u 0 0 = true ∧ (u.ch 0).state ≠ .running ∧ (u.ch 0).state ≠ .held) :=
  ⟨⟨rfl, rfl, rfl, by decide +kernel⟩, by decide +kernel, by decide +kernel⟩

theorem test_witness_ClosedGateRefusesEveryWrite_locked :
    let s := lockedAt .locked tool
    (oneBased 12 (field (lineBody 1 (lineRec 7)) 0 1) = some 1 ∧ lineCfgOf (lineBody 1 (lineRec 7)) = some (lineRec 7) ∧
      isPurgeLine s 1 = false) ∧
    ((1 : GasClass) ≠ 7 ∧ (1 : GasClass) ≠ 0 ∧ (7 : GasClass) ≠ 0) ∧
    ((bodyChamber (paramBody 0 ChamberParams.default)).isSome = true ∧ paramsInRange (paramBody 0 ChamberParams.default) = true ∧
      paramsOrdered (paramsOf (paramBody 0 ChamberParams.default)) = true ∧
      purgeLineOk s (paramsOf (paramBody 0 ChamberParams.default)) = true) ∧
    (10 ≤ (mapAt none).fs ∧ (mapAt none).fs ≤ 20000 ∧ (mapAt none).floor ≤ 500 ∧ 1 ≤ (mapAt none).ramp ∧
      (mapAt none).ramp ≤ 10000) ∧
    (field (u8 95 ++ pollBytes (entry 127 6 12)) 0 1 ≤ 95 ∧ pollInRange (pollOf (u8 95 ++ pollBytes (entry 127 6 12))) = true) ∧
    ((allIx 6).length = 6 ∧ (allIx 6).Nodup ∧ 10000 ≤ 10000000 ∧ 1000 ≤ 9999999 ∧ 9999999 < 10000000 ∧ 20 ≤ 2000) ∧
    (inputsOf (field (u8 10 ++ u8 0 ++ u32 15) 0 1) (field (u8 10 ++ u8 0 ++ u32 15) 1 1) ≠ [] ∧
      1 ≤ field (u8 10 ++ u8 0 ++ u32 15) 2 4 ∧ field (u8 10 ++ u8 0 ++ u32 15) 2 4 ≤ 15) ∧
    (Asked s 0x0A#8 .cfglk (u8 Lock.guarded.code)) ∧
    (8 ≤ field (u8 0 ++ u8 64 ++ u16 2000) 1 1 ∧ field (u8 0 ++ u8 64 ++ u16 2000) 1 1 ≤ 64 ∧
      100 ≤ field (u8 0 ++ u8 64 ++ u16 2000) 2 2 ∧ field (u8 0 ++ u8 64 ++ u16 2000) 2 2 ≤ 2000) :=
  ⟨by decide, by decide, by decide +kernel, by decide, by decide, by decide, by decide, ⟨rfl, rfl, rfl, rfl⟩, by decide⟩

/-! ### Starts of steps -/

/-- The body of a STABILIZE STEP of PC1 with one gas entry: line L1 at a flow. -/
def gasBody (flow : Nat) : List Byte :=
  u8 1 ++ u16 301 ++ u8 2 ++ u8 0 ++ u8 1 ++ u8 0 ++ u32 20000 ++ u32 0 ++ u8 5 ++ u32 0 ++ u16 0 ++ u16 0 ++ u16 0 ++ u16 0
    ++ u32 1000 ++ u32 0 ++ u16 0 ++ u32 0 ++ u32 0 ++ u32 0 ++ u16 0 ++ u8 0 ++ u8 1 ++ u16 flow

/-- PC1 HELD under HIGHVAC with L1 its purge line. -/
def heldGas : State :=
  (pc1 (fun q => { q with state := .held, vac := .highvac, hold := some 30000 })).modCfg (fun g =>
    { g with chambers := g.chambers.put 0 { ChamberParams.default with purgeLine := some 0 } })

/-- What StepStartsInReadyChamber asks of a state, a chamber's step and its kind. -/
def StartAsked (s : State) (k : Kind) (b : List Byte) : Prop :=
  Asked s 0x0F#8 .step b ∧ stepLengthOk b = true ∧ bodyChamber b = some 0 ∧ stepKindOf b = some k ∧
    ((s.ch 0).state = .ready ∨ (s.ch 0).state = .held) ∧ (s.ch 0).slotA = none ∧ (s.ch 0).slotB = none ∧
    (s.ch 0).loadPtr = (s.ch 0).runPtr ∧ stepRefusal (ask s 0x0F#8 b) 0 k b = none ∧ Out (ask s 0x0F#8 b) 0 ∧
    QueueApart (ask s 0x0F#8 b)

/-- A process step from HELD: lost, waiting, without exhaust, or admitted; with a purge inserted or not. -/
theorem test_witness_StepStartsInReadyChamber_process :
    StartAsked heldGas .stabilize (gasBody 500) ∧
    (let s := ask heldGas 0x0F#8 (gasBody 500)
     let r := storedRecord s 0 .stabilize (gasBody 500)
     lidClosed s 0 = true ∧ r.kind.isProcess = true ∧ (s.ch 0).vac = .highvac ∧
       (buildRequest s 0 r).wants = [{ line := 0, flow := 500 }] ∧ admissible s 0 (buildRequest s 0 r) = true ∧
       emoAsserted s = false ∧ exhOk s = true ∧ (buildRequest s 0 r).purge = false ∧
       wouldOpen 0 (firstTargets s 0 r) s = true) ∧
    emoAsserted ((ask heldGas 0x0F#8 (gasBody 500)).modInp .emo (fun x => { x with qual := some true })) = true ∧
    (let s := (ask heldGas 0x0F#8 (gasBody 500)).modLine 0 (fun x => { x with state := .lockedOut })
     (s.ln 0).state = .lockedOut) ∧
    (let s := ask (heldGas.modCh 0 (fun q => { q with residue := Vector.replicate 8 true })) 0x0F#8 (gasBody 500)
     (buildRequest (s.modCfg (fun g => { g with matrix := Vector.replicate 8 (Vector.replicate 8 false) })) 0
       (storedRecord s 0 .stabilize (gasBody 500))).purge = true) := by
  refine ⟨⟨⟨rfl, rfl, rfl, rfl⟩, by decide +kernel, by decide +kernel, by decide +kernel, Or.inr rfl, rfl, rfl, rfl,
    by decide +kernel, ⟨by decide, by decide, by decide⟩, (fun d hd => by cases hd)⟩, by decide +kernel, by decide +kernel, rfl,
    by decide +kernel⟩

/-- A PUMPDOWN at crossover pressure, above it with the foreline free or held by a chamber or a line, and a VENT with GATE
open. -/
theorem test_witness_StepStartsInReadyChamber_pumps :
    StartAsked heldGas .pumpdown (stepBody 1 1) ∧ StartAsked heldGas .vent (stepBody 1 6) ∧
    atCrossover heldGas 0 = false ∧ atCrossover (heldGas.modCh 0 (fun q => { q with pressure := some 150000 })) 0 = true ∧
    (heldGas.ch 0).gate.cmd = false ∧ (heldGas.ch 0).roughOpen = false ∧ (heldGas.ch 0).vent.isClosed = true ∧
    ((heldGas.modCh 0 (fun q => { q with gate := { cmd := true, pos := .opened } })).ch 0).gate.countsOpen = true := by
  refine ⟨⟨⟨rfl, rfl, rfl, rfl⟩, by decide +kernel, by decide +kernel, by decide +kernel, Or.inr rfl, rfl, rfl, rfl,
    by decide +kernel, ⟨by decide, by decide, by decide⟩, (fun d hd => by cases hd)⟩,
    ⟨⟨rfl, rfl, rfl, rfl⟩, by decide +kernel, by decide +kernel, by decide +kernel, Or.inr rfl, rfl, rfl, rfl,
    by decide +kernel, ⟨by decide, by decide, by decide⟩, (fun d hd => by cases hd)⟩, by decide, by decide, rfl, rfl, by decide,
    by decide⟩

theorem test_witness_AbortReturnsChamberToReady_flush :
    let s := (runs .venting (ctx .vent)).modCh 0 (fun q => { q with slotB := some (rec .cycle), loadPtr := .a })
    Asked s 0x10#8 .abrt (u8 1) ∧ (s.ch 0).exec = some (ctx .vent) ∧ (ctx .vent).slot = (s.ch 0).runPtr.other ∧
      (s.ch 0).slot (s.ch 0).runPtr = some (rec .cycle) ∧ (s.ch 0).phase = .venting ∧
      ((runs .ventIsolate (ctx .vent)).ch 0).phase = .ventIsolate :=
  ⟨⟨rfl, rfl, rfl, rfl⟩, rfl, rfl, rfl, rfl, rfl⟩

/-! ### Readings -/

/-- The reply of PC1's wide gauge. -/
def gaugeBytes (v : Nat) : BusReply := replyOf (u8 2 ++ u8 0 ++ u32 v)

/-- The reply of the FORELINE entry. -/
def foreBytes (v : Nat) : BusReply := replyOf (u8 1 ++ u8 0 ++ u32 v)

/-- The reply of PC1's SOURCE. -/
def sourceBytes (f r : Nat) : BusReply := replyOf (u8 5 ++ u8 0 ++ u16 f ++ u16 r)

/-- A wide gauge reading of PC1 is a valid one wherever the poll table is the tool's and no process reading is kept. -/
theorem gauge_reading (s : State) (v : Nat) (hc : s.cfg = tool.cfg) (hp : (s.ch 0).processReading = none)
    (hj : judgeReply (tool.cfg.poll.look 1) .gaugeWide (gaugeBytes v).bytes = some (u32 v)) (hn : bytesNat (u32 v) = v) :
    GaugeReading (flying 1 s) (gaugeBytes v) 0 none (some v) (some v) :=
  ⟨⟨txnOf 1, u32 v, rfl, Or.inr
    ⟨⟨rfl, rfl, rfl, by show ownerOf (s.cfg.poll.look 1).owner = _; rw [hc]; decide,
      by show roleOf (s.cfg.poll.look 1).role = _; rw [hc]; decide,
      by show judgeReply (s.cfg.poll.look 1) _ _ = _; rw [hc]; exact hj⟩, hp.symm, by rw [hn]⟩⟩⟩

/-- Readings at a target in band, at crossover, at the soft rough level and at atmosphere; so in each phase of PC1. -/
theorem test_witness_gauge_readings (p : Phase) (e : StepCtx) :
    Served (flying 1 (runs p e)) ∧ ((flying 1 (runs p e)).ch 0).state = .running ∧ ((flying 1 (runs p e)).ch 0).phase = p ∧
    ((flying 1 (runs p e)).ch 0).exec = some e ∧ Out (flying 1 (runs p e)) 0 ∧ QueueApart (flying 1 (runs p e)) ∧
    ∀ v ∈ [20000, 150000, 150001, 100000000, 100000001, 750000000],
      GaugeReading (flying 1 (runs p e)) (gaugeBytes v) 0 none (some v) (some v) := by
  refine ⟨rfl, rfl, rfl, rfl, ⟨List.not_mem_nil, rfl, fun h => by cases h⟩, (fun d hd => by cases hd), ?_⟩
  simp only [List.forall_mem_cons, List.not_mem_nil, false_implies, implies_true, and_true]
  refine ⟨?_, ?_, ?_, ?_, ?_, ?_⟩ <;> exact gauge_reading _ _ rfl rfl (by decide +kernel) (by decide +kernel)

theorem test_witness_RoughingResumed_readings :
    (runs .waitForeline (ctx .pumpdown)).cfg.chambers.look 0 = ChamberParams.default ∧
    150000 ≤ ChamberParams.default.crossover ∧ ChamberParams.default.crossover < 150001 ∧
    100000000 ≤ ChamberParams.default.softRough ∧ ChamberParams.default.softRough < 100000001 ∧
    (Asked tool 0x12#8 .rres (u8 1) ∧ (tool.ch 0).exec = none) ∧ (Asked tool 0x11#8 .rsus (u8 1)) ∧
    (let s := (runs .roughSuspended (ctx .pumpdown)).modCh 0 (fun q => { q with pressure := some 150000 })
     Asked s 0x12#8 .rres (u8 1) ∧ (s.ch 0).exec = some (ctx .pumpdown) ∧ atCrossover s 0 = true ∧ Out s 0) ∧
    (let s := suspended.modFla (fun a => { a with
       state := .heldPumpout, holder := some (.line 0), pumps := a.pumps.put 0 { cmd := true, pos := .opened } })
     Asked s 0x12#8 .rres (u8 1) ∧ s.fla.state ≠ .idle ∧ s.fla.holder = some (.line 0) ∧
       (s.fla.pumps.look 0).countsOpen = true) :=
  ⟨rfl, by decide, by decide, by decide, by decide, ⟨⟨rfl, rfl, rfl, rfl⟩, rfl⟩, ⟨rfl, rfl, rfl, rfl⟩,
    ⟨⟨rfl, rfl, rfl, rfl⟩, rfl, by decide, by decide, by decide, by decide⟩, ⟨rfl, rfl, rfl, rfl⟩, by decide⟩

/-- Foreline readings just above the backing limit and just below the resume level, for a chamber and a line that hold it. -/
theorem test_witness_RoughingSuspended_backing (s : State) (hs : s = roughing ∨ s = pumpingL1) :
    Served (flying 0 s) ∧ ((flying 0 s).pollDyn 0).state ≠ .failed ∧
    (∀ v ∈ [500001, 299999],
      GivesReading (flying 0 s) (foreBytes v) (txnOf 0) .tool
        .foreline (u32 v)) ∧
    ((roughing.ch 0).exec = some (ctx .pumpdown) ∧ (roughing.ch 0).inPhase SubPhase.fast.phase = true ∧
      s.fla.pause = false ∧ s.cfg.backingLimit < 500001 ∧ ¬(s.cfg.resumeLevel ≤ 299999)) ∧
    (let q := (roughing.modFla (fun a => { a with pause := true })).modCh 0 (fun q =>
       { q with phase := .roughPaused, exec := some { ctx .pumpdown with paused := some .soft } })
     (q.ch 0).inPhase .roughPaused = true ∧ q.fla.pause = true) := by
  rcases hs with rfl | rfl
  all_goals
    refine ⟨rfl, by decide, ?_, ⟨rfl, by decide, by decide, by decide, by decide⟩, by decide⟩
    simp only [List.forall_mem_cons, List.not_mem_nil, false_implies, implies_true, and_true]
    refine ⟨⟨rfl, rfl, rfl, ?_, ?_, ?_⟩, ⟨rfl, rfl, rfl, ?_, ?_, ?_⟩⟩ <;> decide +kernel

/-- PC2 waits in ADMIT for L1. -/
def waitsL1 : State :=
  (tool.modCh 1 (fun q =>
    { q with
      state := .running, phase := .admission, vac := .highvac, exec := some { ctx .purge with admitAt := some 0 },
      slotA := some (rec .purge), loadPtr := .b, runPtr := .b, admitTimer := some 60000
      request := some { wants := [{ line := 0, flow := 1 }], purge := false } })).modGat (fun g => { g with queue := [1] })

theorem test_witness_LineLockoutFaultsHolders_waiter :
    Asked waitsL1 0x14#8 .line (u8 1 ++ u8 1) ∧ (1 : Chamber) ∈ waitsL1.gat.queue ∧
    (waitsL1.ch 1).request = some { wants := [{ line := 0, flow := 1 }], purge := false } ∧
    flowOn [{ line := 0, flow := 1 }] 0 ≠ none ∧ (waitsL1.ch 1).state = .running :=
  ⟨⟨rfl, rfl, rfl, rfl⟩, by decide, rfl, by decide, rfl⟩

theorem test_witness_SoftResetOfOtherBlocks_list :
    Asked pumpingL1 0x19#8 .rset [] ∧ pumpingL1.fla.list = [{ line := 0, acc := 4000 }] ∧ 0 < pumpTimeMs pumpingL1 0 :=
  ⟨⟨rfl, rfl, rfl, rfl⟩, rfl, by decide⟩

theorem test_witness_LinkReceivesAndTransmits_bytes :
    (Served (assembling [] quiet) ∧ (assembling [] quiet).svl.assembler = some [] ∧ 240 < (241#8 : Byte).toNat ∧
      (240#8 : Byte).toNat ≤ 240) ∧
    ((assembling [1#8] quiet).svl.assembler = some [1#8] ∧ asmComplete ([1#8] ++ [0x01#8]) = false) :=
  ⟨⟨rfl, rfl, by decide⟩, rfl, by decide⟩

/-- PC1 in ETCH of a step with no overetch, ENDPOINT asserted. -/
def noOveretch : StepCtx := { dueCtx .plasma with record := { rec .plasma with overetchPct := 0 } }

theorem test_witness_EndpointAndCycleGoOn_atOnce :
    (let s := (runs .etch noOveretch).modInp (.endpoint 0) (fun x => { x with qual := some true })
     Served s ∧ Expired s 0 .etch noOveretch noOveretch.maskTimer ∧ endpointAsserted s 0 = true ∧ noOveretch.etchAt = some 100 ∧
       (s.now - 100) * noOveretch.record.overetchPct = 0 ∧ LastStep s 0 noOveretch) ∧
    (let g : GasEntry := { line := 0, flow := 500, channel := 0, cmd := 5000, eff := 500 }
     let e : StepCtx := { dueCtx .cycle with record := { rec .cycle with setB := [g], setA := [g] } }
     let s := (runs .cyclingA e).modInp .exhOk (fun x => { x with qual := some false })
     Served s ∧ Expired s 0 .cyclingA e e.cycleTimer ∧ exhOk s = false ∧ wouldOpen 0 e.record.cmdB s = true ∧
       wouldOpen 0 e.record.cmdA s = true ∧ Expired (runs .cyclingB e) 0 .cyclingB e e.cycleTimer) ∧
    (let e : StepCtx := { noOveretch with maskDone := true }
     Told (.csq 0) (.endpoint 0) true (runs .etch e) ∧ ((runs .etch e).ch 0).inPhase .etch = true ∧
       LastStep (runs .etch e) 0 e) :=
  ⟨⟨rfl, ⟨rfl, rfl, rfl⟩, by decide, rfl, by decide, ⟨rfl, rfl, rfl⟩⟩,
    ⟨rfl, ⟨rfl, rfl, rfl⟩, by decide, by decide, by decide, ⟨rfl, rfl, rfl⟩⟩, ⟨rfl, rfl⟩, rfl, ⟨rfl, rfl, rfl⟩⟩

/-- Travels that end in ROUGH_SOFT, VENT_ISOLATE and CROSSOVER. -/
theorem test_witness_ValveTravelsEnd_waits :
    (let s := (roughing.modCh 0 (fun q => { q with
       phase := .roughSoft, roughSoft := { cmd := false, pos := .closed }, roughFast := { cmd := false, pos := .closed }
       gate := { cmd := false, pos := .closing 1000 } }))
     ((s.ch 0).valve .gate).travelDue s = true ∧ (s.ch 0).inPhase .roughSoft = true ∧ s.fla.holder = some (.chamber 0) ∧
       s.fla.state = .heldChamber ∧ (s.ch 0).gate.expire.isClosed = true ∧ (s.ch 0).vent.isClosed = true ∧
       s.iiu.forcing = false) ∧
    (let s := (runs .ventIsolate (ctx .vent)).modCh 0 (fun q => { q with gate := { cmd := false, pos := .closing 1000 } })
     ((s.ch 0).valve .gate).travelDue s = true ∧ Out s 0 ∧
       ((s.ch 0).setValve .gate (s.ch 0).gate.expire).mayOpenVent = true ∧ (s.ch 0).mayOpenVent = false) ∧
    (let s := (runs .crossover (ctx .pumpdown)).modCh 0 (fun q => { q with roughFast := { cmd := false, pos := .closing 1000 } })
     ((s.ch 0).valve .roughFast).travelDue s = true ∧ Out s 0 ∧ (s.ch 0).gate.cmd = false ∧
       ((s.ch 0).setValve .roughFast (s.ch 0).roughFast.expire).mayOpenGate = true ∧ foreOk s = true ∧ turboOk s 0 = true ∧
       foreOk (s.modInp .foreOk (fun x => { x with qual := none })) = false ∧
       turboOk (s.modInp (.turboOk 0) (fun x => { x with qual := none })) 0 = false) :=
  ⟨by decide, ⟨by decide, ⟨by decide, by decide, by decide⟩, by decide⟩, by decide,
    ⟨by decide, by decide, by decide⟩, by decide⟩

/-- PC1 at the end of its step with a VENT step waiting. -/
def nextWaits (p : Phase) (e : StepCtx) : State := (runs p e).modCh 0 (fun q => { q with slotB := some (rec .vent), loadPtr := .a })

theorem test_witness_CompletedStepHoldsChamber_next :
    LastStep (runs .steady (dueCtx .stabilize)) 0 (dueCtx .stabilize) ∧
    (let s := nextWaits .steady (dueCtx .stabilize)
     Served s ∧ Expired s 0 .steady (dueCtx .stabilize) (dueCtx .stabilize).duration ∧
       (dueCtx .stabilize).slot = (s.ch 0).runPtr.other ∧ (s.ch 0).slot (s.ch 0).runPtr = some (rec .vent) ∧ Out s 0 ∧
       QueueApart s) ∧
    (let g : GasEntry := { line := 0, flow := 500, channel := 0, cmd := 5000, eff := 500 }
     CleansManifold tool 0 { rec .purge with setA := [g], durationMs := 10000 }) ∧
    ((flying 1 (runs .highVac (ctx .pumpdown))).ch 0).inPhase .highVac = true ∧ 20000 ≤ (ctx .pumpdown).record.targetA ∧
    ((flying 1 (runs .venting (ctx .vent))).ch 0).inPhase .venting = true ∧
    ((flying 1 (runs .venting (ctx .vent))).cfg.chambers.look 0).atmosphere ≤ 750000000 ∧
    ((flying 1 (runs .venting (ctx .vent))).ch 0).slot ((flying 1 (runs .venting (ctx .vent))).ch 0).runPtr = none :=
  ⟨⟨rfl, rfl, rfl⟩, ⟨rfl, ⟨rfl, rfl, rfl⟩, rfl, rfl, ⟨by decide, by decide, by decide⟩, (fun d hd => by cases hd)⟩,
    ⟨rfl, by decide, by decide, by decide⟩, by decide, by decide, by decide, by decide, by decide⟩

/-- A settle test in and out of band, a watched phase, and SOURCE replies that pass and fail the strike test. -/
theorem test_witness_PurgeAndSettleGoOn_readings :
    (inBand (some 20000) (ctx .plasma).record.targetA (ctx .plasma).record.tolerance = true ∧ (ctx .plasma).settleTimer = none ∧
      (ctx .plasma).record.settleMs = 0 ∧ (rec .stabilize).kind = .stabilize ∧
      inBand (some 150000) (ctx .plasma).record.targetA (ctx .plasma).record.tolerance = false) ∧
    ((ctx .cycle).watchTarget .cyclingB = some 30000 ∧ (ctx .cycle).watchTarget .cyclingA = some 20000) ∧
    ((rec .pumpdown).targetA < 150000 ∧ 150000 < ChamberParams.default.atmosphere) ∧
    (∀ k : Kind,
      let s := flying 4 (runs .strike (ctx k))
      Served s ∧ (s.ch 0).inPhase .strike = true ∧ (s.ch 0).exec = some (ctx k) ∧
      GivesReading s (sourceBytes 400 80) (txnOf 4) (.chamber 0)
        .source (u16 400 ++ u16 80) ∧
      GivesReading s (sourceBytes 399 0) (txnOf 4) (.chamber 0)
        .source (u16 399 ++ u16 0)) ∧
    (500 * 8 ≤ 400 * 10 ∧ 80 * 5 ≤ 400 ∧ 399 * 10 < 500 * 8) := by
  refine ⟨by decide, by decide, by decide, fun k => ?_, by decide⟩
  cases k <;> refine ⟨rfl, rfl, rfl, ⟨rfl, rfl, rfl, ?_, ?_, ?_⟩, ⟨rfl, rfl, rfl, ?_, ?_, ?_⟩⟩ <;> decide +kernel

theorem test_witness_GrantGoesToFirstInChain_line :
    (let s := tool.modFla (fun a => { a with list := [{ line := 0, acc := 9999 }, { line := 3, acc := 0 }] })
     grantBlocked s = false ∧ (∀ d ∈ s.cfg.chain, s.fla.waiting.look d = false) ∧ 9999 < pumpTimeMs s 0) ∧
    (let s := tool.modFla (fun a => { a with list := [{ line := 0, acc := 10000 }] })
     grantBlocked s = false ∧ pumpTimeMs s 0 ≤ 10000) := by decide

/-- PC1 holds L1 to its capacity. -/
def fullL1 : State :=
  { readyPc1.modCh 0 (fun q => { q with state := .held, hold := some 30000, holdings := [{ line := 0, flow := 1000 }] }) with
    pending := [.holdExpiry 0], now := 30000 }

theorem fullL1_law : ∀ c : Chamber, ChamberLaw fullL1 c := by
  intro c
  refine ⟨?_, ?_, ?_, ?_, ?_, ?_, ?_, ?_, ?_, ?_, ?_, ?_, ?_, ?_⟩
  case refine_6 =>
    have h : ∀ c : Chamber, (fullL1.ch c).exec = none := by decide
    intro e he
    rw [h c] at he
    cases he
  all_goals (revert c; decide)

theorem test_witness_AdmissionStaysWithinCapacity_law : (∀ c : Chamber, ChamberLaw fullL1 c) ∧ CapacityLaw fullL1 ∧
    ∃ t, step fullL1 = .next t := by
  refine ⟨fullL1_law, ⟨?_, by decide, ?_, ?_, ?_, ?_⟩, _, rfl⟩
  · have h : ∀ l : Line, (fullL1.cfg.lines.look l).all (fun r => decide (allocated fullL1 l ≤ r.capacity)) = true := by decide
    intro l r hr
    have := h l
    rw [hr] at this
    simpa using this
  · have h : ∀ c : Chamber, (fullL1.ch c).holdings.all (fun x => decide (c = 0) && decide (x.line = 0)) = true := by decide
    intro c x hx
    have := List.all_eq_true.mp (h c) x hx
    simp only [Bool.and_eq_true, decide_eq_true_eq] at this
    obtain ⟨rfl, hl⟩ := this
    exact ⟨by decide, 0, by rw [hl]; rfl⟩
  · have h : ∀ c : Chamber, (fullL1.ch c).request = none := by decide
    intro c rq hr
    rw [h c] at hr
    cases hr
  · have h : ∀ c : Chamber, (fullL1.ch c).slotA = none ∧ (fullL1.ch c).slotB = none := by decide
    intro c x r hr
    cases x
    · rw [show (fullL1.ch c).slot .a = (fullL1.ch c).slotA from rfl, (h c).1] at hr; cases hr
    · rw [show (fullL1.ch c).slot .b = (fullL1.ch c).slotB from rfl, (h c).2] at hr; cases hr
  · have h : ∀ c : Chamber, (fullL1.ch c).exec = none := by decide
    intro c e he
    rw [h c] at he
    cases he

/-- PC2 at the head of the queue, its request admissible, EMO's release to be told. -/
theorem test_witness_AdmissionStaysWithinCapacity_service :
    Told .gat .emo false waitsL1 ∧ emoAsserted (told .gat .emo false waitsL1) = false ∧
    (told .gat .emo false waitsL1).gat.queue = 1 :: [] ∧
    admissible (told .gat .emo false waitsL1) 1 { wants := [{ line := 0, flow := 1 }], purge := false } = true ∧
    exhOk (told .gat .emo false waitsL1) = true ∧ ∀ c : Chamber, ChamberLaw (told .gat .emo false waitsL1) c := by
  refine ⟨⟨rfl, rfl⟩, by decide, rfl, by decide, by decide, fun c => ⟨?_, ?_, ?_, ?_, ?_, ?_, ?_, ?_, ?_, ?_, ?_, ?_, ?_, ?_⟩⟩
  case refine_6 =>
    have h : ∀ c : Chamber, (waitsL1.ch c).exec.all (fun e => decide (e.slot = (waitsL1.ch c).runPtr.other ∧
        (waitsL1.ch c).slot e.slot = some e.record ∧
        ((waitsL1.ch c).loadPtr = (waitsL1.ch c).runPtr ↔ (waitsL1.ch c).slot (waitsL1.ch c).runPtr = none))) = true := by
      decide
    intro e he
    have := h c
    rw [show (waitsL1.ch c).exec = some e from he] at this
    exact of_decide_eq_true this
  all_goals (revert c; decide)

/-- With an urgent entry, and with a due one, the frame that begins has a transaction; with a budget of 0 it has none. -/
theorem test_witness_InstrumentFrameBegins_list :
    (let s := { tool.modIlc (fun i => { i with urgent := [3] }) with now := 10 }
     Served s ∧ frameMayBegin s = true ∧ frameChosen s = 3 :: [] ∧ 0 < s.cfg.budget ∧ s.ilc.urgent ≠ []) ∧
    (let s := { tool.modPoll 2 (fun x => { x with countdown := 1 }) with now := 10 }
     frameMayBegin s = true ∧ frameChosen s = 2 :: [] ∧ dueAtFrame s 2 = true) ∧
    frameChosen { tool with now := 10 } = [] ∧
    (let s := ({ tool.modPoll 2 (fun x => { x with due := true, late := 4 }) with now := 10 }.modCfg (fun g =>
       { g with budget := 0 })).modSvl (fun v => { v with tx := some [] })
     frameMayBegin s = true ∧ leftOut s 2 = true ∧ (s.pollDyn 2).late + 1 = 5 ∧ s.svl.tx ≠ none ∧
       s.svl.mask.look Category.instr.ix = true ∧
       s.svl.events.length + ((allIx 96).filter (fun e => leftOut s e && decide ((s.pollDyn e).late + 1 = 5))).length
         ≤ Config.eventQueueSize) :=
  ⟨⟨rfl, by decide +kernel⟩, by decide +kernel, by decide +kernel, by decide +kernel⟩

theorem test_witness_FlowReadingIntegrates_kept :
    (Served (flying 2 tool) ∧ GivesReading (flying 2 tool) (replyOf (u8 3 ++ u8 0 ++ u16 77))
      (txnOf 2) (.chamber 0) .throttle (u16 77)) ∧
    (GivesReading (flying 4 tool) (sourceBytes 400 80) (txnOf 4)
      (.chamber 0) .source (u16 400 ++ u16 80) ∧ ((flying 4 tool).ch 0).inPhase .strike = false) ∧
    (let s := flying 4 (tool.modCfg (fun g => { g with poll := g.poll.put 4 (entry 5 1 12) }))
     GivesReading s (sourceBytes 400 80) (txnOf 4)
       (.chamber 0) .bias (u16 400 ++ u16 80)) ∧
    (GaugeReading (flying 1 tool) (gaugeBytes 20000) 0 none (some 20000) (some 20000) ∧
      ((flying 1 tool).ch 0).state ≠ .running) := by
  refine ⟨⟨rfl, rfl, rfl, rfl, ?_, ?_, ?_⟩, ⟨⟨rfl, rfl, rfl, ?_, ?_, ?_⟩, rfl⟩, ⟨rfl, rfl, rfl, ?_, ?_, ?_⟩,
    gauge_reading _ _ rfl rfl (by decide +kernel) (by decide +kernel), by decide⟩ <;> decide +kernel

theorem test_witness_MissedRepliesFailInstrument_more :
    (let s := (flying 1 tool).modPoll 1 (fun x => { x with misses := 2 })
     (s.ch 0).state = .offline ∧ (s.pollDyn 1).state ≠ .failed ∧ Config.missLimit ≤ (s.pollDyn 1).misses + 1) ∧
    (∀ s ∈ [tool, roughing, pumpingL1],
      let u := (flying 0 s).modPoll 0 (fun x => { x with misses := 2 })
      ownerOf (u.cfg.poll.look 0).owner = some .tool ∧ roleOf (u.cfg.poll.look 0).role = some .foreline ∧
        (u.pollDyn 0).state ≠ .failed ∧ Config.missLimit ≤ (u.pollDyn 0).misses + 1) ∧
    (let s := (flying 1 tool).modIlc (fun i => { i with
       inFlight := some { txnOf 1 with discarded := true }, frameRest := [2] })
     s.ilc.inFlight = some { txnOf 1 with discarded := true } ∧ s.ilc.frameRest = 2 :: [] ∧
       s.now < s.ilc.frameAt + 10) := by decide +kernel

/-! ### STEP's tests and the stored fields -/

/-- The body of a STABILIZE STEP of PC1 with gas entries, and a duration. -/
def gasesBody (es : List (Nat × Nat)) (ms : Nat) : List Byte :=
  u8 1 ++ u16 301 ++ u8 2 ++ u8 0 ++ u8 es.length ++ u8 0 ++ u32 20000 ++ u32 0 ++ u8 75 ++ u32 0 ++ u16 0 ++ u16 0 ++ u16 0 ++ u16 0
    ++ u32 ms ++ u32 0 ++ u16 0 ++ u32 0 ++ u32 0 ++ u32 0 ++ u16 0 ++ u8 0 ++ es.flatMap (fun x => u8 x.1 ++ u16 x.2)

/-- PC1 HELD with a purge line, L1 of class 1 bound and polled, and L2 of class 2 with or without record, channel and poll entry. -/
def twoLines (purge : Option Line) (record bound polled : Bool) : State :=
  let s := heldGas.modCfg (fun g =>
    { g with
      lines := (g.lines.put 0 (some { lineRec 1 with cabinet := 0 })).put 1 (if record then some (lineRec 2) else none)
      maps := if bound then g.maps.put 0 ((g.maps.look 0).put 1 { line := some 1, fs := 1000, floor := 100, ramp := 3000 }) else g.maps
      chambers := g.chambers.put 0 { ChamberParams.default with purgeLine := purge } })
  if polled then withEntry 5 (entry 6 1 1) s else s

/-- The first test of R28's 6 to 12 that fails is the one at a place of the list, with its code. -/
def FailsAt (s : State) (es : List (Nat × Nat)) (n : Nat) (code : Nak) : Prop :=
  ∃ before test after, stepTests s 0 .stabilize (gasesBody es 50) = before ++ (test, code) :: after ∧ before.length = n ∧
    (∀ x ∈ before, x.1) ∧ ¬test

theorem fails_at {s : State} {es : List (Nat × Nat)} {n : Nat} {code : Nak} {test : Prop}
    (h : (stepTests s 0 .stabilize (gasesBody es 50))[n]? = some (test, code))
    (hb : ∀ x ∈ (stepTests s 0 .stabilize (gasesBody es 50)).take n, x.1) (ht : ¬test) : FailsAt s es n code := by
  obtain ⟨hn, hx⟩ := List.getElem?_eq_some_iff.mp h
  refine ⟨_, test, (stepTests s 0 .stabilize (gasesBody es 50)).drop (n + 1), ?_, List.length_take_of_le (Nat.le_of_lt hn), hb, ht⟩
  rw [← hx, List.getElem_cons_drop, List.take_append_drop]

theorem test_witness_RefusedStepChangesNothing_tests :
    FailsAt (twoLines (some 0) false false false) [(13, 5)] 0 .badTarget ∧
    FailsAt (twoLines (some 0) false false false) [(1, 5), (1, 6)] 1 .duplicate ∧
    FailsAt (twoLines (some 0) false false false) [(2, 5)] 2 .notConfigured ∧
    FailsAt (twoLines (some 0) true false false) [(2, 5)] 3 .noChannel ∧
    FailsAt (twoLines (some 0) true true false) [(2, 5)] 4 .notConfigured ∧
    FailsAt (twoLines none true true true) [(1, 5)] 5 .notConfigured ∧
    FailsAt (twoLines (some 1) true false false) [(1, 5)] 6 .noChannel ∧
    FailsAt (twoLines (some 1) true true false) [(1, 5)] 7 .notConfigured ∧
    FailsAt (twoLines (some 0) true true true) [(1, 5), (2, 5)] 8 .incompatible ∧
    (∀ x ∈ stepTests (twoLines (some 0) true true true) 0 .stabilize (gasesBody [(1, 5)] 50), x.1) ∧
    (Asked (twoLines (some 0) true true true) 0x0F#8 .step (gasesBody [(12, 5), (0, 5)] 50) ∧
      stepLengthOk (gasesBody [(1, 5), (2, 5)] 50) = true ∧ stepKindOf (gasesBody [(1, 5)] 50) = some .stabilize) := by
  refine ⟨fails_at rfl ?_ ?_, fails_at rfl ?_ ?_, fails_at rfl ?_ ?_, fails_at rfl ?_ ?_, fails_at rfl ?_ ?_, fails_at rfl ?_ ?_,
    fails_at rfl ?_ ?_, fails_at rfl ?_ ?_, fails_at rfl ?_ ?_, ?_, ⟨rfl, rfl, rfl, rfl⟩, by decide +kernel⟩ <;>
  (try simp only [stepTests, List.take, List.forall_mem_cons, List.not_mem_nil, false_implies, implies_true, and_true, Named,
    Polled, boundHere]) <;>
  (repeat' apply And.intro) <;>
  decide +kernel

/-- R33's examples: a duration of 50 becomes 100 and a tolerance of 75 becomes 50, with their warnings; the step passes its tests. -/
theorem test_witness_StoredFieldsInRange_stored :
    let s := twoLines (some 0) true true true
    let r := storedRecord s 0 .stabilize (gasesBody [(1, 5)] 50)
    stepLengthOk (gasesBody [(1, 5)] 50) = true ∧ stepRefusal s 0 .stabilize (gasesBody [(1, 5)] 50) = none ∧
    sentPurge s 0 .stabilize (gasesBody [(1, 5)] 50) = [(1, 0)] ∧ r.durationMs = 100 ∧ r.tolerance = 50 ∧
    r.warnings.timeClamped = true ∧ r.warnings.toleranceClamped = true ∧ r.warnings.pressureClamped = false ∧
    findEntry s (.chamber 0) .bias = none := by
  decide +kernel

/-- R98's sixth row: raw 1,667 is lowered to 1,666 by the flow-range limit, with FLOW_CLAMPED. -/
theorem test_witness_FlowArithmeticBounds_command :
    (2 * 1667 * (1500 * 20000) ≤ 2 * 50000 * 1000000 + 1500 * 20000 ∧
      2 * 50000 * 1000000 + 1500 * 20000 < 2 * (1667 + 1) * (1500 * 20000) ∧ 50000 * 1000000 < 1667 * 1500 * 20000) ∧
    storedCommand 50000 1500 20000 100 = (1666, true, false) ∧
    (0 < 5000 ∧ 60 = min 5000 (0 + 60) ∧ 60 < 100) ∧ (0 < 130 ∧ 70 = max 0 (130 - 60) ∧ 70 < 100) := by decide

/-! ### Records of a fault, decisions of the foreline, transactions -/

/-- A frame is in transmission. -/
def sending (s : State) : State := s.modSvl (fun v => { v with tx := some [] })

theorem test_witness_ExpiredLimitsFaultChamber_posts :
    let s := sending (roughOut.modCh 0 (fun q => { q with slotB := some (rec .vent), loadPtr := .a }))
    (s.ch 0).exec = some { ctx .pumpdown with roughHeld := 299500, roughSince := some 500 } ∧
    (∀ e, (s.ch 0).exec = some e → e.slot = (s.ch 0).runPtr.other) ∧ s.svl.tx ≠ none ∧
    breakEvents s 0 .roughTimeout = [.stepend 0 300 .roughTimeout, .stepend 0 300 .flushed] ∧
    s.svl.events.length + ((breakEvents s 0 .roughTimeout ++ [Event.fault 0 .roughTimeout,
      .chstate 0 .faulted .none (vacAfterFault s 0)]).filter (unmasked s)).length ≤ Config.eventQueueSize :=
  ⟨rfl, fun e he => by cases he; rfl, by decide, by decide, by decide⟩

/-- PC1 suspended, its last rough valve's closing travel run out in HANDOVER; and PC1 in CROSSOVER so. -/
theorem test_witness_ValveTravelsEnd_handover :
    ∀ p ∈ [Phase.roughSuspended, .crossover, .ventIsolate],
      let s := ((runs p (ctx .pumpdown)).modCh 0 (fun q => { q with roughSoft := { cmd := false, pos := .closing 1000 } })).modFla
        (fun a => { a with state := .handover, waiting := a.waiting.put 3 true })
      Served s ∧ ((s.ch 0).valve .roughSoft).travelDue s = true ∧ s.fla.state = .handover ∧
      forelineValveOpen (s.modCh 0 (fun q => q.setValve .roughSoft (q.valve .roughSoft).expire)) = false ∧
      (p = .roughSuspended → ∀ x ∈ [Phase.roughSoft, .roughFast, .ventIsolate, .crossover], (s.ch 0).inPhase x = false) ∧
      (p ≠ .roughSuspended → (s.ch 0).inPhase .crossover = true ∨ (s.ch 0).inPhase .ventIsolate = true) ∧
      Out s 0 ∧ QueueApart s ∧ grantBlocked s = false ∧ s.cfg.chain = [0, 1, 2] ++ 3 :: [4, 5] ∧
      (∀ d ∈ [(0 : Chamber), 1, 2], s.fla.waiting.look d = false) ∧ s.fla.waiting.look 3 = true := by
  simp only [List.forall_mem_cons, List.not_mem_nil, false_implies, implies_true, and_true]
  refine ⟨?_, ?_, ?_⟩ <;>
    exact ⟨rfl, by decide, rfl, by decide, by decide, by decide, ⟨by decide, by decide, by decide⟩, (fun d hd => by cases hd),
      by decide, rfl, by decide, by decide⟩

/-- A line listed on an idle foreline whose last block has cleared; and a pump-out paused, its pump valve already closed. -/
theorem test_witness_NoticesOfLossFaultChambers_foreline :
    (let s := tool.modFla (fun a => { a with list := [{ line := 0, acc := 0 }] })
     Told .fla .emo false s ∧ Told .fla .foreOk true s ∧ s.fla.state = .idle ∧ grantBlocked s = false ∧ 0 < pumpTimeMs s 0) ∧
    (Told .fla .foreOk true roughing ∧ roughing.fla.state ≠ .idle) ∧
    (Told .fla .emo true pumpingL1 ∧ pumpingL1.fla.holder = some (.line 0) ∧ forelineValveOpen pumpingL1 = true) ∧
    (let s := (pumpingL1.modFla (fun a => { a with
       pause := true, progress := none, pumps := a.pumps.put 0 { cmd := false, pos := .closed } })).modInp .emo (fun x => { x with qual := some true })
     Told .fla .emo true s ∧ s.fla.holder = some (.line 0) ∧ forelineValveOpen s = false ∧ grantBlocked s = true) :=
  ⟨⟨⟨rfl, rfl⟩, ⟨rfl, rfl⟩, by decide⟩, ⟨⟨rfl, rfl⟩, by decide⟩, ⟨⟨rfl, rfl⟩, by decide⟩, ⟨rfl, rfl⟩, by decide⟩

/-- The window of the first transaction expires with another in the list: a reply of the first finds the second in flight. -/
theorem test_witness_MissedRepliesFailInstrument_late :
    let s := (flying 1 tool).modIlc (fun i => { i with frameRest := [2] })
    s.ilc.inFlight = some (txnOf 1) ∧ (txnOf 1).number < s.ilc.built ∧
    (∃ t, exec .responseWindowExpiry s = .next t ∧ t.ilc.inFlight.map (fun x => (x.number, x.entry)) = some (1, 2)) ∧
    (gaugeBytes 20000).txn = (txnOf 1).number ∧ ({ txn := 1, bytes := [] } : BusReply).txn ≠ (txnOf 1).number :=
  ⟨rfl, by decide, ⟨_, rfl, by decide +kernel⟩, rfl, by decide⟩

theorem test_witness_InstrumentFrameBegins_ramp :
    let s := { (tool.modIlc (fun i => { i with urgent := [3] })).modChan 0 0 (fun x => { x with target := 5000 }) with now := 10 }
    Served s ∧ frameMayBegin s = true ∧ frameChosen s = 3 :: [] ∧ ownerOf (s.cfg.poll.look 3).owner = some (.chamber 0) ∧
      roleOf (s.cfg.poll.look 3).role = some (.flow 0) ∧ rampStep 0 5000 3000 100 = 3000 :=
  ⟨rfl, by decide +kernel, by decide +kernel, by decide, by decide, by decide⟩

/-! ## One step each -/

/-- The state after a command. -/
def ran (i : Instr) (s : State) : State :=
  match exec i s with
  | .next t => t
  | _ => s

/-- R4: PC1 comes online READY, with vacuum status UNKNOWN. -/
theorem test_onln : ((ran .onln (ask tool 0x0D#8 (u8 1))).ch 0).state = .ready ∧
    ((ran .onln (ask tool 0x0D#8 (u8 1))).ch 0).vac = .unknown := by decide

/-- R4 test 3: PC2 has no wide gauge. -/
theorem test_onln_refused : ((ran .onln (ask tool 0x0D#8 (u8 2))).ch 1).state = .offline := by decide

/-- R165: a LOCKED part stays LOCKED. -/
theorem test_cfglk_locked : (ran .cfglk (ask (lockedAt .locked quiet) 0x0A#8 [0#8])).cfg.lock = .locked := by decide

/-- R62: PC3 and PC1 wait; the default chain order gives PC1 the foreline. -/
theorem test_grant_in_chain_order :
    (grantDecision (tool.modFla (fun a => { a with waiting := (a.waiting.put 2 true).put 0 true }))).fla.holder
      = some (.chamber 0) := by decide

/-- R65, R81: on an idle foreline a READY line pumps out at once. -/
theorem test_pumpout_at_once : ((ran .linePumpout (ask tool 0x14#8 (u8 1 ++ u8 0))).ln 0).state = .pumpingOut ∧
    ((ran .linePumpout (ask tool 0x14#8 (u8 1 ++ u8 0))).fla.pumps.look 0).cmd = true := by decide

/-- R68: a pump-out of 10 s that has run 4,000 + 6,000 ms is complete; its valve closes over 200 ms. -/
theorem test_pumpout_complete : (ran .pumpoutCompletion pumpingL1).fla.pumps.look 0 = { cmd := false, pos := .closing 6300 } ∧
    (ran .pumpoutCompletion pumpingL1).fla.toGat = [(.complete, 0)] := by decide

/-- R128: with an arc limit of 3 the third counted arc is counted and the fourth fails the step. -/
theorem test_arcs : (((ran (.arcEdge 0) (runs .etch { ctx .plasma with arcs := 2 })).ch 0).exec.map (·.arcs)) = some 3 ∧
    ((ran (.arcEdge 0) (runs .etch { ctx .plasma with arcs := 3 })).ch 0).cause = some .arcLimit := by
  decide +kernel

/-- R9: PLASMA's end with no step waiting enters HELD for the hold limit's 30 s. -/
theorem test_held : ((ran (.overetchExpiry 0) (runs .overetch (dueCtx .plasma))).ch 0).state = .held ∧
    ((ran (.overetchExpiry 0) (runs .overetch (dueCtx .plasma))).ch 0).hold = some 31000 := by decide

/-- R134: at the end of phase A the throttle target is phase B's. -/
theorem test_cycle_switch : ((ran (.cyclePhaseExpiry 0) (runs .cyclingA (dueCtx .cycle))).ch 0).throttle = .pressure 30000 ∧
    ((ran (.cyclePhaseExpiry 0) (runs .cyclingA (dueCtx .cycle))).ch 0).source = 400 := by decide

/-- R127: an endpoint 900 ms into ETCH at 30 % gives an overetch of 270 ms. -/
theorem test_mask_with_endpoint :
    ((ran (.maskExpiry 0) ((runs .etch (dueCtx .plasma)).modInp (.endpoint 0) (fun x => { x with qual := some true }))).ch 0).exec.map
      (·.overetchTimer) = some (some 1270) := by decide

/-- R158: at an EMO assertion an open rough valve starts its closing travel with its command standing. -/
theorem test_emo : ((ran .emoAssertion roughing).ch 0).roughSoft = { cmd := true, pos := .closing 1200 } ∧
    (ran .emoAssertion roughing).iiu.forcing = true := by decide

/-- R14, R15: the EMO notice faults the roughing chamber, which leaves the foreline. -/
theorem test_emo_notice : ((ran (.qualifiedChangeNotice (.csq 0) .emo) (told (.csq 0) .emo true roughing)).ch 0).cause = some .emo ∧
    (ran (.qualifiedChangeNotice (.csq 0) .emo) (told (.csq 0) .emo true roughing)).fla.state = .handover := by
  decide +kernel

/-- R156: after reset FORE_OK qualifies at 2 ms and not before. -/
theorem test_qualification : ((ran (.qualificationExpiry .foreOk) { State.reset with now := 2 }).inp .foreOk).qual = some true ∧
    ((ran (.qualificationExpiry .foreOk) { State.reset with now := 1 }).inp .foreOk).qual = none := by decide

/-- R173: the last byte of a frame puts it in the request buffer. -/
theorem test_frame_received : (ran (.frameReceived identLast) (assembling identBytes quiet)).svl.buffer = [fr 0x01#8 []] := by
  decide +kernel

/-- R178: MARK's record follows the event queue's. -/
theorem test_mark : ((ran .mark ((ask (withEvents 1) 0x18#8 (u32 77)).modSvl (fun v => { v with tx := some [] }))).svl.events.map
    (·.event)) = [.mark 0, .mark 77] := by decide

/-- R24: RSET takes the roughing chamber OFFLINE and its open rough valve starts closing. -/
theorem test_rset : ((ran .rset (ask roughing 0x19#8 [])).ch 0).state = .offline ∧
    ((ran .rset (ask roughing 0x19#8 [])).ch 0).roughSoft.pos = .closing 1200 := by decide +kernel

end Sys2Proof.Tests
end

section
namespace Sys2Proof.Machine

/-- The number of the transaction in flight, and how many have been built (notes/assumptions/50.md): what the bounds ask of the
Instrument Link's numbering. -/
def flightOf (s : State) : Option Nat × Nat := (s.ilc.inFlight.map (·.number), s.ilc.built)

section
variable (s : State)

@[simp] theorem flightOf_modCh (c : Chamber) (f : Csq → Csq) : flightOf (s.modCh c f) = flightOf s := rfl
@[simp] theorem flightOf_modExec (c : Chamber) (f : StepCtx → StepCtx) : flightOf (s.modExec c f) = flightOf s := rfl
@[simp] theorem flightOf_modChan (c : Chamber) (k : Channel) (f : ChanCtx → ChanCtx) :
    flightOf (s.modChan c k f) = flightOf s := rfl
@[simp] theorem flightOf_modGat (f : Gat → Gat) : flightOf (s.modGat f) = flightOf s := rfl
@[simp] theorem flightOf_modLine (l : Line) (f : LineDyn → LineDyn) : flightOf (s.modLine l f) = flightOf s := rfl
@[simp] theorem flightOf_modFla (f : Fla → Fla) : flightOf (s.modFla f) = flightOf s := rfl
@[simp] theorem flightOf_modPoll (e : EntryIx) (f : PollDyn → PollDyn) : flightOf (s.modPoll e f) = flightOf s := rfl
@[simp] theorem flightOf_modIiu (f : Iiu → Iiu) : flightOf (s.modIiu f) = flightOf s := rfl
@[simp] theorem flightOf_modInp (i : Input) (f : InState → InState) : flightOf (s.modInp i f) = flightOf s := rfl
@[simp] theorem flightOf_modSvl (f : Svl → Svl) : flightOf (s.modSvl f) = flightOf s := rfl
@[simp] theorem flightOf_post (e : Event) : flightOf (post e s) = flightOf s := by simp [flightOf]

/-- A change of the transaction in flight that keeps its number. -/
theorem flightOf_modIlc_map {f : Ilc → Ilc} {g : Txn → Txn} (hg : ∀ x, (g x).number = x.number)
    (hf : (f s.ilc).inFlight = s.ilc.inFlight.map g) (hb : (f s.ilc).built = s.ilc.built) : flightOf (s.modIlc f) = flightOf s := by
  simp [flightOf, hf, hb, Option.map_map, Function.comp_def, hg]

/-- A test that both branches of leave the numbering alone leaves it alone: simp closes the ite with equal branches. -/
@[simp] theorem flightOf_ite (p : Prop) [Decidable p] (t u : State) :
    flightOf (if p then t else u) = if p then flightOf t else flightOf u := apply_ite flightOf p t u

theorem flightOf_foldl {α : Type} {f : State → α → State} (hf : ∀ u a, flightOf (f u a) = flightOf u) (xs : List α) :
    flightOf (xs.foldl f s) = flightOf s := by
  induction xs generalizing s with
  | nil => rfl
  | cons a rest ih => exact (ih (f s a)).trans (hf s a)
end

section
variable (c : Chamber) (l : Line) (k : Channel) (s : State)

/-! ## Ops.lean -/

@[simp] theorem flightOf_postChstate : flightOf (postChstate c s) = flightOf s := by simp [postChstate]
@[simp] theorem flightOf_postForeline : flightOf (postForeline s) = flightOf s := by simp [postForeline]
@[simp] theorem flightOf_closeValve (v : ChamberValve) : flightOf (closeValve c v s) = flightOf s := by simp [closeValve]
@[simp] theorem flightOf_closeRough : flightOf (closeRough c s) = flightOf s := by simp [closeRough]
@[simp] theorem flightOf_driveOpen (v : ChamberValve) : flightOf (driveOpen c v s) = flightOf s := by simp [driveOpen]
@[simp] theorem flightOf_openGate : flightOf (openGate c s) = flightOf s := by simp [openGate]
@[simp] theorem flightOf_openVent : flightOf (openVent c s) = flightOf s := by simp [openVent]
@[simp] theorem flightOf_startRoughTimer : flightOf (startRoughTimer c s) = flightOf s := by simp [startRoughTimer]
@[simp] theorem flightOf_stopRoughTimer : flightOf (stopRoughTimer c s) = flightOf s := by simp [stopRoughTimer]
@[simp] theorem flightOf_openRough : flightOf (openRough c s) = flightOf s := by simp [openRough]
@[simp] theorem flightOf_enterPhase (p : Phase) : flightOf (enterPhase c p s) = flightOf s := by simp [enterPhase]
@[simp] theorem flightOf_startMain : flightOf (startMain c s) = flightOf s := by simp [startMain]
@[simp] theorem flightOf_urgentMark (r : Role) : flightOf (urgentMark c r s) = flightOf s := by
  unfold urgentMark
  repeat' split
  all_goals rfl

@[simp] theorem flightOf_addResidue (g : Option GasClass) : flightOf (addResidue c g s) = flightOf s := by
  unfold addResidue; split <;> simp

@[simp] theorem flightOf_setTarget (v : Nat) : flightOf (setTarget c k v s) = flightOf s := by simp [setTarget]
@[simp] theorem flightOf_setTargets (want : Channel → Nat) : flightOf (setTargets c want s) = flightOf s :=
  flightOf_foldl s (by simp) _
@[simp] theorem flightOf_zeroTargets : flightOf (zeroTargets c s) = flightOf s := by simp [zeroTargets]
@[simp] theorem flightOf_zeroCurrents : flightOf (zeroCurrents c s) = flightOf s := flightOf_foldl s (by simp) _
@[simp] theorem flightOf_clearDeviations : flightOf (clearDeviations c s) = flightOf s := flightOf_foldl s (by simp) _
@[simp] theorem flightOf_setThrottle (t : Throttle) : flightOf (setThrottle c t s) = flightOf s := by simp [setThrottle]
@[simp] theorem flightOf_setSource (w : Nat) : flightOf (setSource c w s) = flightOf s := by simp [setSource]
@[simp] theorem flightOf_setBias (w : Nat) : flightOf (setBias c w s) = flightOf s := by simp [setBias]
@[simp] theorem flightOf_stopRf : flightOf (stopRf c s) = flightOf s := by simp [stopRf]
@[simp] theorem flightOf_leaveQueue : flightOf (leaveQueue c s) = flightOf s := by simp [leaveQueue]
@[simp] theorem flightOf_oweService : flightOf (oweService s) = flightOf s := by simp [oweService]
@[simp] theorem flightOf_releaseHoldings : flightOf (releaseHoldings c s) = flightOf s := by simp [releaseHoldings]
@[simp] theorem flightOf_fileReport (r : Report) : flightOf (fileReport c r s) = flightOf s := by simp [fileReport]
@[simp] theorem flightOf_setLineState (st : LineState) (cause : LineCause) :
    flightOf (setLineState l st cause s) = flightOf s := by
  simp [setLineState]

/-! ## Foreline.lean -/

@[simp] theorem flightOf_modPump (f : Valve → Valve) : flightOf (modPump l f s) = flightOf s := by simp [modPump]
@[simp] theorem flightOf_closePump : flightOf (closePump l s) = flightOf s := by simp [closePump]
@[simp] theorem flightOf_openPump : flightOf (openPump l s) = flightOf s := by simp [openPump]
@[simp] theorem flightOf_sendGat (m : PumpMsg) : flightOf (sendGat m l s) = flightOf s := by simp [sendGat]
@[simp] theorem flightOf_stopProgress : flightOf (stopProgress s) = flightOf s := by
  unfold stopProgress; split <;> simp

@[simp] theorem flightOf_enterSub (p : SubPhase) : flightOf (enterSub c p s) = flightOf s := by simp [enterSub]
@[simp] theorem flightOf_takeGrant : flightOf (takeGrant c s) = flightOf s := by simp [takeGrant]
@[simp] theorem flightOf_takePause : flightOf (takePause c s) = flightOf s := by simp [takePause]
@[simp] theorem flightOf_takeResume : flightOf (takeResume c s) = flightOf s := by simp [takeResume]
@[simp] theorem flightOf_toIdle : flightOf (toIdle s) = flightOf s := by simp [toIdle]
@[simp] theorem flightOf_grantChamber : flightOf (grantChamber c s) = flightOf s := by simp [grantChamber]
@[simp] theorem flightOf_grantLines (ps : List PumpEntry) (s : State) : flightOf (grantLines ps s) = flightOf s := by
  induction ps generalizing s with
  | nil => simp [grantLines]
  | cons p rest ih => simp [grantLines, ih]
@[simp] theorem flightOf_grantDecision : flightOf (grantDecision s) = flightOf s := by
  unfold grantDecision
  split
  · simp
  · split <;> simp

@[simp] theorem flightOf_vacate : flightOf (vacate s) = flightOf s := by simp [vacate]
@[simp] theorem flightOf_handoverCheck : flightOf (handoverCheck s) = flightOf s := by simp [handoverCheck]
@[simp] theorem flightOf_blockCleared : flightOf (blockCleared s) = flightOf s := by simp [blockCleared]
@[simp] theorem flightOf_withdraw : flightOf (withdraw c s) = flightOf s := by simp [withdraw]
@[simp] theorem flightOf_releaseForeline : flightOf (releaseForeline c s) = flightOf s := by simp [releaseForeline]
@[simp] theorem flightOf_leaveForeline : flightOf (leaveForeline c s) = flightOf s := by simp [leaveForeline]
@[simp] theorem flightOf_yieldPumpout : flightOf (yieldPumpout s) = flightOf s := by
  unfold yieldPumpout; split <;> simp

@[simp] theorem flightOf_takeListing : flightOf (takeListing l s) = flightOf s := by simp [takeListing]
@[simp] theorem flightOf_dropEntry : flightOf (dropEntry l s) = flightOf s := by simp [dropEntry]
@[simp] theorem flightOf_takeRemoval : flightOf (takeRemoval l s) = flightOf s := by simp [takeRemoval]
@[simp] theorem flightOf_completePumpout : flightOf (completePumpout l s) = flightOf s := by simp [completePumpout]
@[simp] theorem flightOf_requestForeline : flightOf (requestForeline c s) = flightOf s := by simp [requestForeline]
@[simp] theorem flightOf_setPause (b : Bool) : flightOf (setPause b s) = flightOf s := by
  unfold setPause
  dsimp only
  split
  · simp
  · split <;> simp

@[simp] theorem flightOf_takeForelineReading (p : Nat) : flightOf (takeForelineReading p s) = flightOf s := by
  simp [takeForelineReading]

@[simp] theorem flightOf_forelineUnknown : flightOf (forelineUnknown s) = flightOf s := by simp [forelineUnknown]

/-! ## Chamber.lean -/

@[simp] theorem flightOf_endStep (res : Result) : flightOf (endStep c res s) = flightOf s := by
  unfold endStep; split <;> simp

@[simp] theorem flightOf_flushWaiting : flightOf (flushWaiting c s) = flightOf s := by
  unfold flushWaiting; split <;> simp

@[simp] theorem flightOf_faultChamber (cause : Result) : flightOf (faultChamber c cause s) = flightOf s := by
  simp [faultChamber]

@[simp] theorem flightOf_enterReady : flightOf (enterReady c s) = flightOf s := by simp [enterReady]
@[simp] theorem flightOf_enterHeld : flightOf (enterHeld c s) = flightOf s := by simp [enterHeld]
@[simp] theorem flightOf_abortValves : flightOf (abortValves c s) = flightOf s := by
  unfold abortValves; split <;> simp

@[simp] theorem flightOf_abortStep : flightOf (abortStep c s) = flightOf s := by simp [abortStep]

/-! ## Gas.lean -/

@[simp] theorem flightOf_withTargets (want : Channel → Nat) {g : State → State} (hg : ∀ u, flightOf (g u) = flightOf u) :
    flightOf (withTargets c want g s) = flightOf s := by simp [withTargets, hg]
@[simp] theorem flightOf_enterPurge (r : StepRec) : flightOf (enterPurge c r s) = flightOf s := by simp [enterPurge]
@[simp] theorem flightOf_enterWork (r : StepRec) : flightOf (enterWork c r s) = flightOf s := by simp [enterWork]
@[simp] theorem flightOf_admitChamber (rq : Request) : flightOf (admitChamber c rq s) = flightOf s := by
  unfold admitChamber; split <;> simp

@[simp] theorem flightOf_enterAdmit (r : StepRec) : flightOf (enterAdmit c r s) = flightOf s := by simp [enterAdmit]
theorem flightOf_tryAdmit : flightOf (tryAdmit c s).1 = flightOf s := by
  unfold tryAdmit
  repeat' split
  all_goals simp

theorem flightOf_servicePass (cs : List Chamber) (s : State) : flightOf (servicePass cs s).1 = flightOf s := by
  induction cs generalizing s with
  | nil => rfl
  | cons c rest ih => exact (ih _).trans (flightOf_tryAdmit c s)

@[simp] theorem flightOf_serviceRuns (n : Nat) (s : State) : flightOf (serviceRuns n s) = flightOf s := by
  induction n generalizing s with
  | zero => rfl
  | succ n ih => simp [serviceRuns, ih, flightOf_servicePass]
@[simp] theorem flightOf_runService : flightOf (runService s) = flightOf s := by simp [runService]
@[simp] theorem flightOf_faultHolders : flightOf (faultHolders l s) = flightOf s := flightOf_foldl s (by simp) _
@[simp] theorem flightOf_faultWaiters : flightOf (faultWaiters l s) = flightOf s := flightOf_foldl s (by simp) _
@[simp] theorem flightOf_lockLine (cause : LineCause) : flightOf (lockLine l cause s) = flightOf s := by simp [lockLine]
@[simp] theorem flightOf_sendFla (m : ListMsg) : flightOf (sendFla m l s) = flightOf s := by simp [sendFla]
@[simp] theorem flightOf_lockOut (cause : LineCause) : flightOf (lockOut l cause s) = flightOf s := by simp [lockOut]
@[simp] theorem flightOf_takePumpMsg (m : PumpMsg) : flightOf (takePumpMsg m l s) = flightOf s := by
  unfold takePumpMsg; split <;> simp

@[simp] theorem flightOf_takeAllPumpMsgs : flightOf (takeAllPumpMsgs l s) = flightOf s := by
  simp [takeAllPumpMsgs, flightOf_foldl]

/-! ## Process.lean -/

@[simp] theorem flightOf_enterHighVac : flightOf (enterHighVac c s) = flightOf s := by simp [enterHighVac]
@[simp] theorem flightOf_crossoverOn : flightOf (crossoverOn c s) = flightOf s := by simp [crossoverOn]
@[simp] theorem flightOf_enterCrossover : flightOf (enterCrossover c s) = flightOf s := by simp [enterCrossover]
@[simp] theorem flightOf_startPumpdown : flightOf (startPumpdown c s) = flightOf s := by simp [startPumpdown]
@[simp] theorem flightOf_enterVenting : flightOf (enterVenting c s) = flightOf s := by simp [enterVenting]
@[simp] theorem flightOf_ventIsolateOn : flightOf (ventIsolateOn c s) = flightOf s := by simp [ventIsolateOn]
@[simp] theorem flightOf_startVent : flightOf (startVent c s) = flightOf s := by simp [startVent]
@[simp] theorem flightOf_startStep : flightOf (startStep c s) = flightOf s := by
  unfold startStep
  split
  · simp
  · split <;> simp

@[simp] theorem flightOf_handover (k : Kind) : flightOf (handover c k s) = flightOf s := by simp [handover]
@[simp] theorem flightOf_endOk : flightOf (endOk c s) = flightOf s := by unfold endOk; split <;> simp
@[simp] theorem flightOf_enterSteady (r : StepRec) : flightOf (enterSteady c r s) = flightOf s := by simp [enterSteady]
/-- The mark of a STRIKE entry leaves the number of the transaction it marks (R122). -/
@[simp] theorem flightOf_markBeforeStrike : flightOf (markBeforeStrike c s) = flightOf s :=
  flightOf_modIlc_map s (fun _ => by split <;> rfl) rfl rfl
@[simp] theorem flightOf_startRf (r : StepRec) : flightOf (startRf c r s) = flightOf s := by simp [startRf]
@[simp] theorem flightOf_enterStrike (r : StepRec) : flightOf (enterStrike c r s) = flightOf s := by simp [enterStrike]
@[simp] theorem flightOf_settled : flightOf (settled c s) = flightOf s := by
  unfold settled; split <;> simp

@[simp] theorem flightOf_enterOveretch (o : Nat) : flightOf (enterOveretch c o s) = flightOf s := by simp [enterOveretch]
@[simp] theorem flightOf_endpointReached : flightOf (endpointReached c s) = flightOf s := by
  unfold endpointReached; split <;> simp

@[simp] theorem flightOf_maskExpired : flightOf (maskExpired c s) = flightOf s := by simp [maskExpired]
@[simp] theorem flightOf_enterEtch (r : StepRec) : flightOf (enterEtch c r s) = flightOf s := by
  unfold enterEtch; split <;> simp

@[simp] theorem flightOf_enterCycling (r : StepRec) : flightOf (enterCycling c r s) = flightOf s := by simp [enterCycling]
@[simp] theorem flightOf_strikeConfirmed : flightOf (strikeConfirmed c s) = flightOf s := by
  unfold strikeConfirmed; split <;> simp

@[simp] theorem flightOf_switchCycle (r : StepRec) (toB : Bool) : flightOf (switchCycle c r toB s) = flightOf s := by
  simp [switchCycle]
@[simp] theorem flightOf_cyclePhaseEnd : flightOf (cyclePhaseEnd c s) = flightOf s := by
  unfold cyclePhaseEnd; split <;> simp

@[simp] theorem flightOf_choosePressure : flightOf (choosePressure c s) = flightOf s := by simp [choosePressure]
@[simp] theorem flightOf_trackMinMax : flightOf (trackMinMax c s) = flightOf s := by
  unfold trackMinMax; split <;> simp

@[simp] theorem flightOf_settleTest (e : StepCtx) : flightOf (settleTest c e s) = flightOf s := by simp [settleTest]
@[simp] theorem flightOf_excursionTest (e : StepCtx) (target : Nat) : flightOf (excursionTest c e target s) = flightOf s := by
  simp [excursionTest]

@[simp] theorem flightOf_pressureConditions (e : StepCtx) : flightOf (pressureConditions c e s) = flightOf s := by
  unfold pressureConditions
  repeat' split
  all_goals simp

@[simp] theorem flightOf_evaluatePressure : flightOf (evaluatePressure c s) = flightOf s := by
  unfold evaluatePressure; dsimp only; split <;> simp

@[simp] theorem flightOf_takeArc : flightOf (takeArc c s) = flightOf s := by
  unfold takeArc; split <;> simp

@[simp] theorem flightOf_afterTravel : flightOf (afterTravel c s) = flightOf s := by simp [afterTravel]

/-! ## Flow.lean -/

@[simp] theorem flightOf_rampUpdate : flightOf (rampUpdate c k s) = flightOf s := by simp [rampUpdate]
@[simp] theorem flightOf_integrateReading (m dt : Nat) : flightOf (integrateReading c k m dt s) = flightOf s := by
  unfold integrateReading
  dsimp only
  split
  · simp
  · split <;> simp

@[simp] theorem flightOf_takeFlowReading (r : Nat) : flightOf (takeFlowReading c k r s) = flightOf s := by
  simp [takeFlowReading]

@[simp] theorem flightOf_deviationExpired : flightOf (deviationExpired c k s) = flightOf s := by
  unfold deviationExpired; dsimp only; split <;> simp

/-! ## Instruments.lean -/

@[simp] theorem flightOf_forgetReading (r : Role) : flightOf (forgetReading c r s) = flightOf s := by
  unfold forgetReading; split <;> simp

@[simp] theorem flightOf_forelineFailed : flightOf (forelineFailed s) = flightOf s := by
  unfold forelineFailed; dsimp only
  repeat' split
  all_goals simp

@[simp] theorem flightOf_ownerReport (p : PollCfg) (old new : InstState) : flightOf (ownerReport p old new s) = flightOf s := by
  unfold ownerReport
  repeat' split
  all_goals simp

@[simp] theorem flightOf_postInstr (e : EntryIx) (p : PollCfg) (st : InstState) (reason : InstReason) :
    flightOf (postInstr e p st reason s) = flightOf s := by
  simp [postInstr]

@[simp] theorem flightOf_changeInst (e : EntryIx) (st : InstState) (reason : InstReason) :
    flightOf (changeInst e st reason s) = flightOf s := by
  simp [changeInst]

@[simp] theorem flightOf_validReply (e : EntryIx) : flightOf (validReply e s) = flightOf s := by simp [validReply]
@[simp] theorem flightOf_missReply (e : EntryIx) : flightOf (missReply e s) = flightOf s := by simp [missReply]
@[simp] theorem flightOf_buildRamp (p : PollCfg) : flightOf (buildRamp p s) = flightOf s := by
  unfold buildRamp; split <;> simp

@[simp] theorem flightOf_tickCountdowns : flightOf (tickCountdowns s) = flightOf s := flightOf_foldl s (by simp) _
@[simp] theorem flightOf_countLate (e : EntryIx) : flightOf (countLate e s) = flightOf s := by simp [countLate]
@[simp] theorem flightOf_takeSource (before : Bool) (f r : Nat) : flightOf (takeSource c before f r s) = flightOf s := by
  unfold takeSource; dsimp only; split <;> simp

@[simp] theorem flightOf_routeReading (p : PollCfg) (before : Bool) (data : List Byte) :
    flightOf (routeReading p before data s) = flightOf s := by
  unfold routeReading; split <;> simp

@[simp] theorem flightOf_takeReply (t : Txn) (bs : List Byte) : flightOf (takeReply t bs s) = flightOf s := by
  unfold takeReply
  dsimp only
  split
  · simp
  · split <;> simp

@[simp] theorem flightOf_toUnknown (e : EntryIx) (reason : InstReason) : flightOf (toUnknown e reason s) = flightOf s := by
  simp [toUnknown]

/-! ## Interlocks.lean -/

@[simp] theorem flightOf_mapValves (f : Nat → Valve → Valve) : flightOf (mapValves f s) = flightOf s := by
  unfold mapValves
  rw [flightOf_modFla]
  exact flightOf_foldl s (by simp) _

@[simp] theorem flightOf_beginForcing : flightOf (beginForcing s) = flightOf s := by simp [beginForcing]
@[simp] theorem flightOf_endForcing : flightOf (endForcing s) = flightOf s := by simp [endForcing]
@[simp] theorem flightOf_tellOwners (i : Input) (l : Bool) : flightOf (tellOwners i l s) = flightOf s := by simp [tellOwners]
@[simp] theorem flightOf_qualify (i : Input) (l : Bool) : flightOf (qualify i l s) = flightOf s := by simp [qualify]
@[simp] theorem flightOf_assertEmo : flightOf (assertEmo s) = flightOf s := by simp [assertEmo]
@[simp] theorem flightOf_rawChange (i : Input) (l : Bool) : flightOf (rawChange i l s) = flightOf s := by simp [rawChange]
@[simp] theorem flightOf_qualifyExpired (i : Input) : flightOf (qualifyExpired i s) = flightOf s := by simp [qualifyExpired]
@[simp] theorem flightOf_arcRise : flightOf (arcRise c s) = flightOf s := by
  unfold arcRise; dsimp only; split <;> simp

@[simp] theorem flightOf_csqNotice (i : Input) (l : Bool) : flightOf (csqNotice c i l s) = flightOf s := by
  unfold csqNotice; dsimp only
  repeat' split
  all_goals simp

@[simp] theorem flightOf_flaNotice (i : Input) (l : Bool) : flightOf (flaNotice i l s) = flightOf s := by
  unfold flaNotice; split <;> simp

@[simp] theorem flightOf_cabinetDrop (n : Cabinet) : flightOf (cabinetDrop n s) = flightOf s := flightOf_foldl s (by simp) _
@[simp] theorem flightOf_gatNotice (i : Input) (l : Bool) : flightOf (gatNotice i l s) = flightOf s := by
  unfold gatNotice; split <;> simp

@[simp] theorem flightOf_takeNotice (n : Notice) : flightOf (takeNotice n s) = flightOf s := by
  unfold takeNotice; split <;> simp

end

end Sys2Proof.Machine
end

section
namespace Sys2Proof.Machine

open Host (Outcome)

/-! ## Transactions: the number in flight is below the count of those built -/

/-- The number in flight, if any, is one of those that have been built (notes/assumptions/50.md). -/
def BelowBuilt (x : Option Nat × Nat) : Prop := ∀ n, x.1 = some n → n < x.2

theorem belowBuilt_none (n : Nat) : BelowBuilt (none, n) := fun _ h => nomatch h

/-- A built transaction takes the count before it as its number (R144). -/
theorem flightOf_buildTxn (e : EntryIx) (s : State) : flightOf (buildTxn e s) = (some s.ilc.built, s.ilc.built + 1) := by
  have same := flightOf_buildRamp
    (s.modPoll e (fun x => { x with due := false, late := 0, countdown := (s.cfg.poll.look e).period })) (s.cfg.poll.look e)
  rw [flightOf_modPoll] at same
  have hb := congrArg Prod.snd same
  simp only [flightOf] at hb
  simp [buildTxn, flightOf, hb]

theorem buildNext_belowBuilt {s : State} (h : BelowBuilt (flightOf s)) : BelowBuilt (flightOf (buildNext s)) := by
  unfold buildNext
  split
  · exact h
  · rw [flightOf_buildTxn]
    intro n hn
    cases hn
    exact Nat.lt_succ_self _

/-- A beginning frame has nothing in flight but what it builds (R146). -/
theorem beginFrame_belowBuilt (s : State) : BelowBuilt (flightOf (beginFrame s)) := by
  unfold beginFrame
  dsimp only
  refine buildNext_belowBuilt ?_
  rw [flightOf_foldl _ (fun u e => by simp)]
  exact belowBuilt_none _

theorem endTxn_belowBuilt (s : State) : BelowBuilt (flightOf (endTxn s)) := by
  unfold endTxn
  dsimp only
  split
  · exact beginFrame_belowBuilt _
  · exact buildNext_belowBuilt (belowBuilt_none _)

/-! ## Bounded, from what the shared operations keep -/

theorem Bounded.belowBuilt {s : State} (b : Bounded s) : BelowBuilt (flightOf s) := by
  intro n hn
  obtain ⟨x, hx, rfl⟩ := Option.map_eq_some_iff.1 hn
  exact b.flight x hx

/-- What holds from a bounded state on, with the transaction in flight among those built, is bounded. -/
theorem Bounded.of_holds {s t : State} (b : Bounded s) (h : Holds s t) (hf : BelowBuilt (flightOf t)) : Bounded t where
  buffer := by rw [h.svl]; exact b.buffer
  events := h.events b.events
  reports c := h.reports c (b.reports c)
  urgent := h.urgent b.urgent
  flight x hx := hf x.number (by simp [flightOf, hx])

theorem Bounded.keep {s t : State} (b : Bounded s) (h : Keeps s t) (hf : flightOf t = flightOf s) : Bounded t :=
  b.of_holds h.toHolds (hf ▸ b.belowBuilt)

theorem Bounded.hold {s t : State} (b : Bounded s) (h : Holds s t) (hf : flightOf t = flightOf s) : Bounded t :=
  b.of_holds h (hf ▸ b.belowBuilt)

section
variable {s : State} (b : Bounded s)
include b

/-! ## Updates and tests -/

theorem Bounded.modCfg (f : Cfg → Cfg) : Bounded (s.modCfg f) := ⟨b.buffer, b.events, b.reports, b.urgent, b.flight⟩
theorem Bounded.modFla (f : Fla → Fla) : Bounded (s.modFla f) := ⟨b.buffer, b.events, b.reports, b.urgent, b.flight⟩
theorem Bounded.modGat (f : Gat → Gat) : Bounded (s.modGat f) := ⟨b.buffer, b.events, b.reports, b.urgent, b.flight⟩
theorem Bounded.modIiu (f : Iiu → Iiu) : Bounded (s.modIiu f) := ⟨b.buffer, b.events, b.reports, b.urgent, b.flight⟩
theorem Bounded.modPoll (e : EntryIx) (f : PollDyn → PollDyn) : Bounded (s.modPoll e f) :=
  ⟨b.buffer, b.events, b.reports, b.urgent, b.flight⟩
theorem Bounded.modChan (c : Chamber) (k : Channel) (f : ChanCtx → ChanCtx) : Bounded (s.modChan c k f) :=
  ⟨b.buffer, b.events, b.reports, b.urgent, b.flight⟩

theorem Bounded.modCh (c : Chamber) {f : Csq → Csq} (hr : (f (s.ch c)).reports.length ≤ Config.reportQueueSize) :
    Bounded (s.modCh c f) := by
  refine ⟨b.buffer, b.events, fun d => ?_, b.urgent, b.flight⟩
  rw [State.modCh_ch]
  split
  · exact hr
  · exact b.reports d

theorem Bounded.modSvl {f : Svl → Svl} (hb : (f s.svl).buffer.length ≤ Config.requestBufferSize)
    (he : (f s.svl).events.length ≤ Config.eventQueueSize) : Bounded (s.modSvl f) := ⟨hb, he, b.reports, b.urgent, b.flight⟩

theorem Bounded.modIlc {f : Ilc → Ilc} (hu : (f s.ilc).urgent.length ≤ Config.urgentQueueSize)
    (hf : BelowBuilt (flightOf (s.modIlc f))) : Bounded (s.modIlc f) :=
  ⟨b.buffer, b.events, b.reports, hu, fun x hx => hf x.number (by simp [flightOf, State.modIlc_ilc] at hx ⊢; simp [hx])⟩

/-- A command that acts only where its occasion stands. -/
theorem Bounded.ite {p : Prop} [Decidable p] {t : State} (h : Bounded t) : Bounded (if p then t else s) := by
  split
  · exact h
  · exact b

end

theorem bounded_foldl {α : Type} {f : State → α → State} (hf : ∀ u a, Bounded u → Bounded (f u a)) {s : State} (b : Bounded s)
    (xs : List α) : Bounded (xs.foldl f s) := by
  induction xs generalizing s with
  | nil => exact b
  | cons a rest ih => exact ih (hf s a b)

/-! ## The end of a command, and requests -/

theorem Svl.transmit_buffer (v : Svl) : v.transmit.buffer = v.buffer := by
  unfold Svl.transmit
  repeat' split
  all_goals rfl

theorem Svl.transmit_events_length (v : Svl) : v.transmit.events.length ≤ v.events.length := by
  unfold Svl.transmit
  split
  · exact Nat.le_refl _
  · split
    · exact Nat.le_refl _
    · split <;> rename_i h <;> simp [h]

theorem Bounded.runService {s : State} (b : Bounded s) : Bounded (runService s) :=
  b.keep (keeps_runService (Keeps.refl s)) (flightOf_runService s)

theorem Bounded.finish {s : State} (b : Bounded s) : Bounded (finish s) :=
  b.runService.modSvl (by rw [Svl.transmit_buffer]; exact b.runService.buffer)
    ((Svl.transmit_events_length _).trans b.runService.events)

theorem Bounded.popFrame {s : State} (b : Bounded s) : Bounded (popFrame s) :=
  b.modSvl (by have := b.buffer; simp only [List.length_tail]; omega) b.events

theorem Bounded.putReply {s : State} (b : Bounded s) (f : Frame) (r : ReplyBody) : Bounded (putReply f r s) :=
  b.modSvl b.buffer b.events

/-- The outcome of a command, if it is a next state, is bounded. -/
def EndsBounded (o : Outcome State Fault Refusal) : Prop := ∀ t, o = .next t → Bounded t

theorem Bounded.ends {s : State} (b : Bounded s) : EndsBounded (.next (Machine.finish s)) := fun t e => by
  injection e with e
  exact e ▸ b.finish

/-- A request row keeps the bounds if its owner's answer does. -/
theorem Bounded.request {s : State} (b : Bounded s) (k : ReqKind) (mine : List Byte → Bool)
    {act : List Byte → State → Answer} (ha : ∀ {u}, Bounded u → ∀ body, Bounded (act body u).1) : Bounded (request k mine act s) := by
  unfold Machine.request
  split
  · exact b
  · refine b.ite ?_
    unfold handle
    dsimp only
    refine Bounded.putReply ?_ _ _
    split
    · exact ha b.popFrame _
    · exact b.popFrame

theorem Bounded.tested {s : State} (b : Bounded s) (tests : List (Bool × Nak)) {yes : Answer} (h : Bounded yes.1) :
    Bounded (tested tests s yes).1 := by
  unfold Machine.tested
  split
  · exact b
  · exact h

/-- A request that is accepted once its tests pass. -/
theorem Bounded.accepted {s t : State} (b : Bounded s) (tests : List (Bool × Nak)) (a : List Byte) (h : Bounded t) :
    Bounded (Machine.tested tests s (accept a t)).1 := b.tested tests h

theorem Bounded.onChamber {s : State} (b : Bounded s) (body : List Byte) {act : Chamber → Answer}
    (h : ∀ c, Bounded (act c).1) : Bounded (onChamber body s act).1 := by
  unfold Machine.onChamber
  split
  · exact b
  · exact h _

theorem Bounded.onLine {s : State} (b : Bounded s) (op : Nat) (body : List Byte) {act : Line → Answer}
    (h : ∀ l, Bounded (act l).1) : Bounded (onLine op body s act).1 := by
  unfold Machine.onLine
  split
  · exact b
  · exact b.tested _ (h _)

end Sys2Proof.Machine
end

section
namespace Sys2Proof.Machine

open Host (Outcome)

/-! ## The assembler (R173) -/

/-- The assembler appends a frame only where the buffer has room (R173). -/
theorem Svl.judge_buffer (bs : List Byte) {v : Svl} (h : v.buffer.length ≤ Config.requestBufferSize) :
    (v.judge bs).buffer.length ≤ Config.requestBufferSize := by
  unfold Svl.judge
  split
  · rename_i room
    simp only [Bool.and_eq_true, decide_eq_true_eq] at room
    simpa using room.2
  · exact h

theorem Svl.takeByte_buffer (n : Nat) (x : Byte) {v : Svl} (h : v.buffer.length ≤ Config.requestBufferSize) :
    (v.takeByte n x).buffer.length ≤ Config.requestBufferSize := by
  unfold Svl.takeByte
  dsimp only
  split
  · split <;> exact h
  · split
    · exact h
    · split
      · exact Svl.judge_buffer _ h
      · exact h

theorem Svl.takeByte_events (n : Nat) (x : Byte) (v : Svl) : (v.takeByte n x).events = v.events := by
  unfold Svl.takeByte Svl.judge
  dsimp only
  repeat' split
  all_goals rfl

section
variable {s : State} (b : Bounded s)
include b

/-! ## Configuration requests -/

theorem Bounded.setLineState (l : Line) (st : LineState) (cause : LineCause) : Bounded (setLineState l st cause s) :=
  b.keep (keeps_setLineState (Keeps.refl s) l st cause) (by simp)

theorem Bounded.oweService : Bounded (oweService s) := b.modGat _

theorem Bounded.faultChamber (c : Chamber) (cause : Result) : Bounded (faultChamber c cause s) :=
  b.keep (keeps_faultChamber (Keeps.refl s) c cause) (by simp)

theorem Bounded.deviationExpired (c : Chamber) (k : Channel) : Bounded (deviationExpired c k s) :=
  b.keep (keeps_deviationExpired (Keeps.refl s) c k) (by simp)

theorem Bounded.post (e : Event) : Bounded (post e s) := b.keep (keeps_post (Keeps.refl s) e) (by simp)

theorem Bounded.postChstate (c : Chamber) : Bounded (postChstate c s) := b.post _

theorem Bounded.ownerReport (p : PollCfg) (old new : InstState) : Bounded (ownerReport p old new s) :=
  b.keep (keeps_ownerReport (Keeps.refl s) p old new) (by simp)

theorem Bounded.toUnknown (e : EntryIx) (reason : InstReason) : Bounded (toUnknown e reason s) :=
  b.keep (keeps_toUnknown (Keeps.refl s) e reason) (by simp)

theorem Bounded.beginFrame : Bounded (beginFrame s) :=
  b.of_holds (keeps_beginFrame (Keeps.refl s)).toHolds (beginFrame_belowBuilt s)

theorem Bounded.endTxn : Bounded (endTxn s) := b.of_holds (keeps_endTxn (Keeps.refl s)).toHolds (endTxn_belowBuilt s)

theorem Bounded.writeLine (l : Line) (r : LineCfg) : Bounded (writeLine l r s) := by
  unfold Machine.writeLine lineAfterWrite
  have b' := b.modCfg (fun g => { g with lines := g.lines.put l (some r) })
  split
  · exact (b'.setLineState _ _ _).oweService
  · exact b'.setLineState _ _ _
  · exact b'.setLineState _ _ _
  · exact b'

theorem Bounded.writeParams (c : Chamber) (p : ChamberParams) : Bounded (writeParams c p s) := by
  unfold Machine.writeParams compareTimers
  refine bounded_foldl (fun u k bu => bu.ite (bu.deviationExpired c k)) ?_ _
  exact (b.modCfg _).ite ((b.modCfg _).faultChamber _ _)

/-- A rewritten entry leaves the urgent queue, and its transaction keeps its number (R142). -/
theorem Bounded.forget (e : EntryIx) : Bounded (s.modIlc (Ilc.forget e)) := by
  refine b.modIlc ((List.length_filter_le _ _).trans b.urgent) ?_
  rw [flightOf_modIlc_map s (g := fun t => if t.entry = e then { t with discarded := true } else t)
    (fun _ => by split <;> rfl) rfl rfl]
  exact b.belowBuilt

theorem Bounded.writePoll (e : EntryIx) (p : PollCfg) : Bounded (writePoll e p s) := by
  unfold Machine.writePoll
  dsimp only
  have b' := ((b.modCfg (fun g => { g with poll := g.poll.put e p })).forget e).modPoll e
    (PollDyn.rewritten e p (s.modCfg (fun g => { g with poll := g.poll.put e p })).cfg.enabled)
  split
  · exact (b'.post _).ownerReport _ _ _
  · exact b'

theorem Bounded.clearUrgent : Bounded (s.modIlc (fun i => { i with urgent := [] })) := b.modIlc (Nat.zero_le _) b.belowBuilt

theorem Bounded.clearFrame : Bounded (s.modIlc (fun i => { i with urgent := [], frameRest := [], inFlight := none })) :=
  b.modIlc (Nat.zero_le _) (fun _ h => nomatch h)

/-- Every entry made UNKNOWN after a change of its schedule (R143). -/
theorem Bounded.allUnknown (g : State → EntryIx → PollDyn → PollDyn) (reason : InstReason) :
    Bounded ((allIx 96).foldl (fun u e => Machine.toUnknown e reason (u.modPoll e (g u e))) s) :=
  bounded_foldl (fun u e bu => (bu.modPoll e (g u e)).toUnknown e reason) b _

theorem Bounded.enablePolling (budget window : Nat) : Bounded (enablePolling budget window s) := by
  unfold Machine.enablePolling
  have all := (b.modCfg (fun g => { g with enabled := true, budget := budget, window := window })).allUnknown
    (fun u e => PollDyn.fresh e (u.cfg.poll.look e)) .enable
  exact all.clearUrgent.beginFrame

theorem Bounded.disablePolling : Bounded (disablePolling s) :=
  (b.modCfg (fun g => { g with enabled := false })).clearFrame.allUnknown (fun _ _ x => { x with due := false }) .disable

/-! ## Chamber and line requests -/

theorem Bounded.bringOnline (c : Chamber) : Bounded (bringOnline c s) := by
  unfold Machine.bringOnline
  have online := b.modCh c (f := fun q => { q with state := .ready, phase := .none, vac := .unknown, cause := none }) (b.reports c)
  exact (bounded_foldl (f := fun u k => u.modChan c k (fun x => { x with lastTime := none })) (fun _ _ bu => bu.modChan _ _ _)
    online (allIx 8)).postChstate c

theorem Bounded.takeOffline (c : Chamber) : Bounded (takeOffline c s) := by
  unfold Machine.takeOffline
  dsimp only
  refine b.keep ?_ (by simp)
  refine keeps_postChstate ?_ c
  refine keeps_modCh' ?_ (fun _ => rfl) (fun _ => rfl)
  refine keeps_setThrottle (keeps_stopRf (keeps_clearDeviations (keeps_zeroCurrents (keeps_zeroTargets ?_ c) c) c) c) c _
  exact keeps_closeValve (keeps_closeValve (keeps_closeRough (Keeps.refl s) c) c _) c _

theorem Bounded.loadStep (c : Chamber) (r : StepRec) : Bounded (loadStep c r s) := by
  unfold Machine.loadStep
  have b' := b.modCh c (f := fun q => { q.setSlot q.loadPtr (some r) with loadPtr := q.loadPtr.other })
    (by simpa using b.reports c)
  dsimp only
  split
  · exact b'
  · exact b'.keep (keeps_startStep (Keeps.refl _) c) (by simp)

theorem Bounded.abortStep (c : Chamber) : Bounded (abortStep c s) := b.keep (keeps_abortStep (Keeps.refl s) c) (by simp)
theorem Bounded.enterReady (c : Chamber) : Bounded (enterReady c s) := b.keep (keeps_enterReady (Keeps.refl s) c) (by simp)

theorem Bounded.suspendRoughing (c : Chamber) : Bounded (suspendRoughing c s) := by
  unfold Machine.suspendRoughing
  dsimp only
  refine b.keep (keeps_leaveForeline (keeps_enterPhase ?_ c _) c) (by simp)
  split
  · exact keeps_startRoughTimer (keeps_closeRough (keeps_modExec (Keeps.refl s)) c) c
  · exact keeps_closeRough (keeps_modExec (Keeps.refl s)) c

theorem Bounded.resumeRoughing (c : Chamber) : Bounded (resumeRoughing c s) := by
  unfold Machine.resumeRoughing
  split
  · exact b.keep (keeps_enterCrossover (Keeps.refl s) c) (by simp)
  · exact b.keep (keeps_requestForeline (Keeps.refl s) c) (by simp)

theorem Bounded.listLine (l : Line) : Bounded (listLine l s) := by
  unfold Machine.listLine
  split
  · exact b.keep (keeps_sendFla (Keeps.refl s) _ l) (by simp)
  · exact b.keep (keeps_takeAllPumpMsgs (keeps_takeListing (Keeps.refl s) l) l) (by simp)

theorem Bounded.lockOut (l : Line) (cause : LineCause) : Bounded (lockOut l cause s) :=
  b.keep (keeps_lockOut (Keeps.refl s) l cause) (by simp)

/-! ## Resets -/

/-- The chambers after a soft reset have no reports (R24). -/
theorem Bounded.resetChannels : Bounded (resetChannels s) := ⟨b.buffer, b.events, b.reports, b.urgent, b.flight⟩

theorem Bounded.resetGat : Bounded (resetGat s) := by
  unfold Machine.resetGat
  dsimp only
  refine ((bounded_foldl ?_ b _).modGat _).modFla _
  exact fun _ _ bu => bu.modGat _

theorem Bounded.resetIlc : Bounded (resetIlc s) := by
  unfold Machine.resetIlc
  have fresh := bounded_foldl
    (f := fun u e => u.modPoll e (PollDyn.softReset e (u.cfg.poll.look e) u.cfg.enabled)) (fun _ _ bu => bu.modPoll _ _) b
    (allIx 96)
  exact fresh.clearFrame.ite fresh.clearFrame.beginFrame

theorem Bounded.resetFla : Bounded (resetFla s) := by
  unfold Machine.resetFla
  dsimp only
  split
  · exact (b.modFla _).modFla _
  · exact (b.modFla _).keep (keeps_grantDecision (Keeps.refl _)) (by simp)

theorem Bounded.softReset : Bounded (softReset s) :=
  (bounded_foldl (f := fun u c => u.modCh c (Csq.softReset u.now (u.cfg.chambers.look c)))
    (fun _ c bu => bu.modCh c (Nat.zero_le _))
    (b.modSvl (f := fun v => { v with buffer := [], events := [], linkFault := false, eventsLost := false })
      (Nat.zero_le _) (Nat.zero_le _)) (allIx 6)).resetChannels.resetGat.resetIlc.resetFla

/-! ## Receiving (R173) -/

/-- The assembler appends a frame only where the buffer has room (R173). -/
theorem Bounded.takeByte (n : Nat) (x : Byte) : Bounded (s.modSvl (Svl.takeByte n x)) :=
  b.modSvl (Svl.takeByte_buffer n x b.buffer) (by rw [Svl.takeByte_events]; exact b.events)

end

/-! ## The owners' answers -/

section
variable {s : State} (b : Bounded s) (body : List Byte)
include b

theorem Bounded.actCfgln : Bounded (actCfgln body s).1 := by
  unfold Machine.actCfgln
  split
  · exact b
  · split
    · exact b
    · exact b.accepted _ _ (b.writeLine _ _)

theorem Bounded.actCfgcx : Bounded (actCfgcx body s).1 := by
  unfold Machine.actCfgcx
  split
  · exact b.accepted _ _ (b.modCfg _)
  · exact b

theorem Bounded.actCfgch : Bounded (actCfgch body s).1 := by
  unfold Machine.actCfgch
  exact b.onChamber body (fun c => b.accepted _ _ (b.writeParams c _))

theorem Bounded.actCfgmap : Bounded (actCfgmap body s).1 := by
  unfold Machine.actCfgmap
  split
  · exact b.accepted _ _ ((b.modCfg _).modChan _ _ _)
  · exact b

theorem Bounded.actCfgpt : Bounded (actCfgpt body s).1 := by
  unfold Machine.actCfgpt
  split
  · exact b
  · exact b.accepted _ _ (b.writePoll _ _)

theorem Bounded.actCfgfl : Bounded (actCfgfl body s).1 := by
  unfold Machine.actCfgfl
  split
  · exact b
  · exact b.accepted _ _ (b.modCfg _)

theorem Bounded.actCfgiq : Bounded (actCfgiq body s).1 := by
  unfold Machine.actCfgiq
  exact b.accepted _ _ (b.modCfg _)
theorem Bounded.actPtenEnable : Bounded (actPtenEnable body s).1 := by
  unfold Machine.actPtenEnable
  exact b.accepted _ _ (b.enablePolling _ _)
theorem Bounded.actPtenDisable : Bounded (actPtenDisable body s).1 := by
  unfold Machine.actPtenDisable
  exact b.accepted _ _ b.disablePolling

theorem Bounded.actOnln : Bounded (actOnln body s).1 := by
  unfold Machine.actOnln
  exact b.onChamber body (fun c => b.accepted _ _ (b.bringOnline c))
theorem Bounded.actOffln : Bounded (actOffln body s).1 := by
  unfold Machine.actOffln
  exact b.onChamber body (fun c => b.accepted _ _ (b.takeOffline c))

theorem Bounded.judgeStep (c : Chamber) : Bounded (judgeStep c body s).1 := by
  unfold Machine.judgeStep
  split
  · exact b
  · split
    · exact b
    · exact b.loadStep c _

theorem Bounded.actStep : Bounded (actStep body s).1 := by
  unfold Machine.actStep
  split
  · exact b
  · exact b.onChamber body (fun c => b.tested _ (b.judgeStep body c))

theorem Bounded.actAbrt : Bounded (actAbrt body s).1 := by
  unfold Machine.actAbrt
  refine b.onChamber body (fun c => ?_)
  split
  · simpa only [accept] using b.abortStep c
  · simpa only [accept] using b.enterReady c
  · exact b

theorem Bounded.actRsus : Bounded (actRsus body s).1 := by
  unfold Machine.actRsus
  refine b.onChamber body (fun c => ?_)
  split
  · exact b
  · split
    · exact b.suspendRoughing c
    · exact b

theorem Bounded.actRres : Bounded (actRres body s).1 := by
  unfold Machine.actRres
  refine b.onChamber body (fun c => ?_)
  split
  · exact b
  · split
    · exact b.resumeRoughing c
    · exact b

theorem Bounded.actClrf : Bounded (actClrf body s).1 := by
  unfold Machine.actClrf
  exact b.onChamber body (fun c => b.accepted _ _ ((b.modCh c (b.reports c)).postChstate c))

/-- RPT takes a report off the queue (R40). -/
theorem Bounded.actRpt : Bounded (actRpt body s).1 := by
  unfold Machine.actRpt
  refine b.onChamber body (fun c => ?_)
  split
  · exact b
  · rename_i r rest h
    have full := b.reports c
    rw [h, List.length_cons] at full
    exact b.modCh c (f := fun q => { q with reports := rest }) (Nat.le_of_succ_le full)

theorem Bounded.actLinePumpout : Bounded (actLinePumpout body s).1 := by
  unfold Machine.actLinePumpout
  refine b.onLine 0 body (fun l => ?_)
  split
  · exact b
  · exact (b.setLineState l _ _).listLine l

theorem Bounded.actLineLockout : Bounded (actLineLockout body s).1 := by
  unfold Machine.actLineLockout
  exact b.onLine 1 body (fun l => b.accepted _ _ (b.lockOut l _))

theorem Bounded.actLineUnlock : Bounded (actLineUnlock body s).1 := by
  unfold Machine.actLineUnlock
  exact b.onLine 2 body (fun l => b.accepted _ _ (b.setLineState l _ _).oweService)

theorem Bounded.actTotl : Bounded (actTotl body s).1 := by
  unfold Machine.actTotl
  split <;> exact b

theorem Bounded.actStat : Bounded (actStat body s).1 := by
  unfold Machine.actStat
  dsimp only
  split
  · exact b
  · exact b.modSvl (f := fun v => { v with linkFault := false, eventsLost := false }) b.buffer b.events

theorem Bounded.actCfglk : Bounded (actCfglk body s).1 := by
  unfold Machine.actCfglk
  split
  · exact b
  · split
    · exact b.modCfg (fun g => { g with lock := _ })
    · exact b

theorem Bounded.actEvmsk : Bounded (actEvmsk body s).1 :=
  b.modSvl (f := fun v => { v with mask := maskOf (field body 0 1) }) b.buffer b.events

theorem Bounded.actMark : Bounded (actMark body s).1 := by
  unfold Machine.actMark
  split
  · exact b.modSvl (f := fun v => { v with eventsLost := true }) b.buffer b.events
  · exact b.post (.mark (field body 0 4))

end
end Sys2Proof.Machine
end

section
namespace Sys2Proof.Machine

open Host (Outcome)

/-! ## Resets, inputs, timers, pump-outs, the Instrument Link -/

/-- A full reset empties every queue, and the numbers of transactions go on (R23, R153, R182, notes/assumptions/50.md). -/
theorem bounded_resetWith (pins : Table Bool 26) (arc : Table Bool 6) (pending : List Instr) (n : Nat) :
    Bounded ((State.resetWith pins arc pending).modIlc (fun i => { i with built := n })) :=
  ⟨Nat.zero_le _, Nat.zero_le _, fun c => by simp [State.resetWith, State.ch, Csq.reset], Nat.zero_le _, fun _ h => nomatch h⟩

theorem execFullReset_ends (s : State) : EndsBounded (execFullReset s) := by
  unfold execFullReset
  refine Bounded.ends ?_
  split
  · exact (bounded_resetWith _ _ _ _).hold (holds_assertEmo (Holds.refl _)) (by simp)
  · exact bounded_resetWith _ _ _ _

section
variable {s : State} (b : Bounded s)
include b

theorem execRawInputChange_ends (p : Pin) (level : Bool) : EndsBounded (execRawInputChange p level s) := by
  unfold execRawInputChange
  refine Bounded.ends ?_
  split
  · exact b.hold (holds_rawChange (Holds.refl s) _ _) (by simp)
  · exact b.modIiu _
  · split
    · exact b
    · exact b.hold (holds_arcRise (Holds.refl s) _) (by simp)

theorem execEmoAssertion_ends : EndsBounded (execEmoAssertion s) := by
  unfold execEmoAssertion
  refine Bounded.ends ?_
  split
  · exact b
  · exact b.hold (holds_assertEmo (Holds.refl s)) (by simp)

theorem execQualifiedChangeNotice_ends (o : NoticeOwner) (i : Input) : EndsBounded (execQualifiedChangeNotice o i s) := by
  unfold execQualifiedChangeNotice
  refine Bounded.ends ?_
  split
  · exact b
  · exact (b.modIiu _).keep (keeps_takeNotice (Keeps.refl _) _) (by simp)

theorem execValveTravelExpiry_ends (c : Chamber) (v : ChamberValve) : EndsBounded (execValveTravelExpiry c v s) := by
  have moved := b.modCh c (f := fun q => q.setValve v (q.valve v).expire) (by rw [Csq.setValve_reports]; exact b.reports c)
  exact (b.ite (moved.keep (keeps_afterTravel (Keeps.refl _) c) (by simp))).ends

theorem Bounded.endOk (c : Chamber) : Bounded (endOk c s) := b.keep (keeps_endOk (Keeps.refl s) c) (by simp)

theorem Bounded.modExec (c : Chamber) (f : StepCtx → StepCtx) : Bounded (s.modExec c f) := b.modCh c (b.reports c)

theorem Bounded.endPurge (c : Chamber) : Bounded (endPurge c s) := by
  unfold Machine.endPurge
  split
  · exact b
  · dsimp only
    refine b.keep (keeps_enterWork ?_ c _) (by simp)
    split
    · exact keeps_oweService (keeps_modCh' (Keeps.refl s) (fun _ => rfl) (fun _ => rfl))
    · exact keeps_modCh' (Keeps.refl s) (fun _ => rfl) (fun _ => rfl)

theorem Bounded.durationEnd (c : Chamber) : Bounded (durationEnd c s) := by
  unfold Machine.durationEnd
  split
  · exact b.endOk c
  · exact b.endOk c
  · split
    · exact b.faultChamber c _
    · exact b.endOk c
  · exact b

theorem execPumpoutCompletion_ends : EndsBounded (execPumpoutCompletion s) := by
  unfold execPumpoutCompletion
  refine Bounded.ends ?_
  split
  · exact b
  · exact b.keep (keeps_completePumpout (Keeps.refl s) _) (by simp)

theorem Bounded.listingBehind (l : Line) : Bounded (listingBehind l s) :=
  b.ite ((b.modGat _).keep (keeps_takeListing (Keeps.refl _) l) (by simp [takeOffFla]))

theorem execRemovalMessage_ends (l : Line) : EndsBounded (execRemovalMessage l s) := by
  have removed : Bounded (takeRemoval l (takeOffFla l s)) :=
    (b.modGat _).keep (keeps_takeRemoval (Keeps.refl _) l) (by simp [takeOffFla])
  exact (b.ite (removed.listingBehind l)).ends

theorem Bounded.takeMsg (m : PumpMsg) (l : Line) : Bounded (takeMsg m l s) :=
  b.ite ((b.modFla _).keep (keeps_takePumpMsg (Keeps.refl _) m l) (by simp))

/-- A judged reply ends its transaction (R144, R145). -/
theorem execInstrumentReply_ends (reply : BusReply) : EndsBounded (execInstrumentReply reply s) := by
  unfold execInstrumentReply
  refine Bounded.ends ?_
  split
  · exact b
  · split
    · exact b
    · exact (b.keep (keeps_takeReply (Keeps.refl s) _ _) (by simp)).runService.endTxn

theorem execResponseWindowExpiry_ends : EndsBounded (execResponseWindowExpiry s) := by
  unfold execResponseWindowExpiry
  refine Bounded.ends ?_
  split
  · exact b
  · refine Bounded.endTxn ?_
    split
    · exact b
    · exact (b.keep (keeps_missReply (Keeps.refl s) _) (by simp)).runService

theorem execUnknownKindFrame_ends : EndsBounded (execUnknownKindFrame s) := by
  unfold execUnknownKindFrame
  refine Bounded.ends ?_
  split
  · exact b
  · exact b.ite (b.popFrame.putReply _ _)

/-! ## Every command, and a step -/

/-- Every command keeps the bounds. -/
theorem exec_ends (i : Instr) : EndsBounded (exec i s) :=
  match i with
  | .fullReset => execFullReset_ends s
  | .frameReceived x => (b.ite (b.takeByte s.now x)).ends
  | .interbyteGapExpiry => (b.ite (b.modSvl b.buffer b.events)).ends
  | .unknownKindFrame => execUnknownKindFrame_ends b
  | .transmitFrameEnd => (b.modSvl (f := fun v => { v with tx := none }) b.buffer b.events).ends
  | .ident => (b.request .ident anyBody (fun h _ => h)).ends
  | .stat => (b.request .stat anyBody Bounded.actStat).ends
  | .cfgln => (b.request .cfgln anyBody Bounded.actCfgln).ends
  | .cfgcx => (b.request .cfgcx anyBody Bounded.actCfgcx).ends
  | .cfgch => (b.request .cfgch anyBody Bounded.actCfgch).ends
  | .cfgmap => (b.request .cfgmap anyBody Bounded.actCfgmap).ends
  | .cfgpt => (b.request .cfgpt anyBody Bounded.actCfgpt).ends
  | .cfgfl => (b.request .cfgfl anyBody Bounded.actCfgfl).ends
  | .cfgiq => (b.request .cfgiq anyBody Bounded.actCfgiq).ends
  | .cfglk => (b.request .cfglk anyBody Bounded.actCfglk).ends
  | .rdcfg => (b.request .rdcfg anyBody (fun h _ => h)).ends
  | .ptenEnable => (b.request .pten (ptenRow 0) Bounded.actPtenEnable).ends
  | .ptenDisable => (b.request .pten (ptenRow 1) Bounded.actPtenDisable).ends
  | .onln => (b.request .onln anyBody Bounded.actOnln).ends
  | .offln => (b.request .offln anyBody Bounded.actOffln).ends
  | .step => (b.request .step anyBody Bounded.actStep).ends
  | .abrt => (b.request .abrt anyBody Bounded.actAbrt).ends
  | .rsus => (b.request .rsus anyBody Bounded.actRsus).ends
  | .rres => (b.request .rres anyBody Bounded.actRres).ends
  | .clrf => (b.request .clrf anyBody Bounded.actClrf).ends
  | .linePumpout => (b.request .line (lineRow 0) Bounded.actLinePumpout).ends
  | .lineLockout => (b.request .line (lineRow 1) Bounded.actLineLockout).ends
  | .lineUnlock => (b.request .line (lineRow 2) Bounded.actLineUnlock).ends
  | .rpt => (b.request .rpt anyBody Bounded.actRpt).ends
  | .totl => (b.request .totl anyBody Bounded.actTotl).ends
  | .evmsk => (b.request .evmsk anyBody Bounded.actEvmsk).ends
  | .mark => (b.request .mark anyBody Bounded.actMark).ends
  | .rset => (b.request .rset anyBody (fun h _ => h.softReset)).ends
  | .rawInputChange p level => execRawInputChange_ends b p level
  | .emoAssertion => execEmoAssertion_ends b
  | .qualificationExpiry i => (b.ite (b.hold (holds_qualifyExpired (Holds.refl s) i) (by simp))).ends
  | .qualifiedChangeNotice o i => execQualifiedChangeNotice_ends b o i
  | .arcEdge c => (b.hold (holds_arcRise (Holds.refl s) c) (by simp)).ends
  | .arcMergeExpiry _ => (b.ite (b.modIiu _)).ends
  | .valveTravelExpiry c v => execValveTravelExpiry_ends b c v
  | .linePumpValveTravelExpiry l =>
    (b.ite (b.keep (keeps_handoverCheck (keeps_modPump (Keeps.refl s) l Valve.expire)) (by simp))).ends
  | .holdExpiry c => (b.ite (b.enterReady c)).ends
  | .roughTimerExpiry c => (b.ite (b.faultChamber c _)).ends
  | .baseTimerExpiry c => (b.ite (b.faultChamber c _)).ends
  | .ventTimerExpiry c => (b.ite (b.faultChamber c _)).ends
  | .admitTimerExpiry c => (b.ite ((b.modExec c _).faultChamber c _)).ends
  | .purgeTimerExpiry c => (b.ite (b.endPurge c)).ends
  | .settleTimerExpiry c => (b.ite (b.keep (keeps_settled (Keeps.refl s) c) (by simp))).ends
  | .settleLimitExpiry c => (b.ite (b.faultChamber c _)).ends
  | .durationExpiry c => (b.ite (b.durationEnd c)).ends
  | .excursionExpiry c => (b.ite (b.faultChamber c _)).ends
  | .strikeTimerExpiry c => (b.ite (b.faultChamber c _)).ends
  | .maskExpiry c => (b.ite (b.keep (keeps_maskExpired (Keeps.refl s) c) (by simp))).ends
  | .overetchExpiry c => (b.ite (b.endOk c)).ends
  | .cyclePhaseExpiry c => (b.ite (b.keep (keeps_cyclePhaseEnd (Keeps.refl s) c) (by simp))).ends
  | .deviationExpiry c k => (b.ite (b.deviationExpired c k)).ends
  | .pumpoutCompletion => execPumpoutCompletion_ends b
  | .removalMessage l => execRemovalMessage_ends b l
  | .begunMessage l => (b.takeMsg .begun l).ends
  | .stoppedMessage l => (b.takeMsg .stopped l).ends
  | .completeMessage l => (b.takeMsg .complete l).ends
  | .instrumentFrameBegin => (b.ite b.beginFrame).ends
  | .instrumentReply reply => execInstrumentReply_ends b reply
  | .responseWindowExpiry => execResponseWindowExpiry_ends b
  | .linkByteReceived x => (b.takeByte s.now x).ends

end

/-- Settles O6: every operation keeps the queues' bounds (Keeps) and the number in flight (flightOf), and the commands are made of
these operations, transactions built among them. -/
theorem queueBoundsKept : Obligations.QueueBoundsKept := by
  intro s t b h
  unfold step at h
  split at h
  · injection h with h
    rw [← h]
    exact ⟨b.buffer, b.events, b.reports, b.urgent, b.flight⟩
  next i rest _ =>
    exact exec_ends (s := { s with pending := rest }) ⟨b.buffer, b.events, b.reports, b.urgent, b.flight⟩ i t h

end Sys2Proof.Machine
end

section
namespace Sys2Proof.Machine

open Host (Outcome)

/-! # How a request row answers (R174 to R176) -/

/-- With no service owed a command ends with the transmitter's choice alone (R90, R176). -/
theorem finish_of_served {s : State} (h : Served s) : finish s = s.modSvl Svl.transmit := by
  unfold finish runService
  rw [show s.gat.serviceDue = false from h]
  rfl

/-- A request row that is its kind's only one hands the next request's body to the owner, after its frame has left the buffer
(R174). -/
theorem request_of_asks {s : State} {k : ReqKind} {f : Frame} (h : Asks s k f) (act : List Byte → State → Answer) :
    request k anyBody act s = putReply f (act f.body (popFrame s)).2 (act f.body (popFrame s)).1 := by
  unfold request
  simp [h.next, h.kind, anyBody, handle, h.fits]

/-- A request whose owner's answer leaves no service owed changes what the owner changes, and the SVL gets its reply. -/
theorem exec_answered {i : Instr} {s t : State} {k : ReqKind} {f : Frame} {act : List Byte → State → Answer} {r : ReplyBody}
    (he : exec i s = .next (finish (request k anyBody act s))) (hk : Asks s k f) (ht : Served t)
    (ha : act f.body (popFrame s) = (popFrame t, r)) : exec i s = .next (t.modSvl (Svl.answered f r)) := by
  rw [he, request_of_asks hk, ha]
  exact congrArg Outcome.next (finish_of_served ht)

/-- A request its owner refuses changes nothing else (R175). -/
theorem refuses_of_refuse {i : Instr} {s : State} {k : ReqKind} {f : Frame} {act : List Byte → State → Answer} {n : Nak}
    (he : exec i s = .next (finish (request k anyBody act s))) (hk : Asks s k f) (hs : Served s)
    (ha : act f.body (popFrame s) = refuse n (popFrame s)) : Refuses i s f n := exec_answered he hk hs ha

/-! ## Fields and numbers of a body (R183) -/

@[simp] theorem field_cons_zero_one (x : Byte) (xs : List Byte) : field (x :: xs) 0 1 = x.toNat := by
  simp [field, bytesNat]

@[simp] theorem field_cons_cons_one_one (x y : Byte) (xs : List Byte) : field (x :: y :: xs) 1 1 = y.toNat := by
  simp [field, bytesNat]

theorem oneBased_eq_some {n m : Nat} {i : Fin n} : oneBased n m = some i ↔ m = i.val + 1 := by
  unfold oneBased
  split
  · rename_i h
    split
    · simp_all
    · rename_i h0
      simp only [Option.some.injEq, Fin.ext_iff]
      omega
  · simp only [reduceCtorEq, false_iff]
    omega

theorem oneBased_eq_none {n m : Nat} : oneBased n m = none ↔ m = 0 ∨ n < m := by
  rw [Option.eq_none_iff_forall_ne_some]
  constructor
  · intro h
    by_contra hm
    exact h ⟨m - 1, by omega⟩ (oneBased_eq_some.2 (by simp only; omega))
  · intro h i hi
    have := oneBased_eq_some.1 hi
    omega

/-- The one-byte body of a chamber's number names the chamber. -/
theorem bodyChamber_u8 (c : Chamber) : bodyChamber (u8 (c.val + 1)) = some c := by
  unfold bodyChamber u8
  rw [field_cons_zero_one, oneBased_eq_some, BitVec.toNat_ofNat]
  omega

end Sys2Proof.Machine
end

section
namespace Sys2Proof.Machine

open Host (Outcome)

/-! # STAT and RPT (R40, R177, R179) -/

/-- The targets and pages that exist (R179). -/
def PageExists (target page : Nat) : Prop := target = 0 ∧ page ≤ 7 ∨ 1 ≤ target ∧ target ≤ 6 ∧ page ≤ 1

theorem statPage_isSome_iff (s : State) (target page : Nat) : (statPage s target page).isSome = true ↔ PageExists target page := by
  unfold statPage PageExists
  split
  · rename_i h0
    split
    · simp [h0]
    · simp [h0]
    · split <;> simp_all
  · rename_i h0
    split
    · rename_i hn
      have := oneBased_eq_none.1 hn
      simp only [Option.isSome_none, Bool.false_eq_true, false_iff]
      omega
    · rename_i c hc
      have := oneBased_eq_some.1 hc
      have lt := c.isLt
      split
      · simp only [Option.isSome_some, true_iff]; omega
      · simp only [Option.isSome_some, true_iff]; omega
      · rename_i h1 h2
        simp only [Option.isSome_none, Bool.false_eq_true, false_iff]
        have : page ≠ 0 := h1
        have : page ≠ 1 := h2
        omega

/-- A page tells nothing of the request buffer. -/
theorem statPage_popFrame (s : State) (target page : Nat) : statPage (popFrame s) target page = statPage s target page := rfl

/-- STAT of an existing page (R177, R179). -/
theorem actStat_some {s : State} {target page : Byte} {data : List Byte}
    (h : statPage s target.toNat page.toNat = some data) :
    actStat [target, page] (popFrame s) = (popFrame (s.modSvl (fun v => { v with linkFault := false, eventsLost := false })),
      .ack (statHead s target.toNat page.toNat ++ data)) := by
  unfold actStat
  simp only [field_cons_zero_one, field_cons_cons_one_one, statPage_popFrame, h]
  rfl

theorem actStat_none {s : State} {target page : Byte} (h : statPage s target.toNat page.toNat = none) :
    actStat [target, page] (popFrame s) = refuse .badTarget (popFrame s) := by
  unfold actStat
  simp only [field_cons_zero_one, field_cons_cons_one_one, statPage_popFrame, h]

/-- RPT of a chamber with reports takes the oldest (R40). -/
theorem actRpt_cons {s : State} {body : List Byte} {c : Chamber} {r : Report} {rest : List Report} (hc : bodyChamber body = some c)
    (hr : (s.ch c).reports = r :: rest) :
    actRpt body (popFrame s) = (popFrame (s.modCh c (fun q => { q with reports := rest })), .ack (reportBody c r)) := by
  unfold actRpt onChamber
  simp only [hc, show ((popFrame s).ch c).reports = r :: rest from hr]
  rfl

theorem actRpt_nil {s : State} {body : List Byte} {c : Chamber} (hc : bodyChamber body = some c) (hr : (s.ch c).reports = []) :
    actRpt body (popFrame s) = refuse .queueEmpty (popFrame s) := by
  unfold actRpt onChamber
  simp only [hc, show ((popFrame s).ch c).reports = [] from hr]

theorem onChamber_none {body : List Byte} (hc : bodyChamber body = none) (s : State) (act : Chamber → Answer) :
    onChamber body s act = refuse .badTarget s := by
  unfold onChamber
  rw [hc]

/-- Settles O12: both owners' answers by their cases, an existing page or not (statPage_isSome_iff), a chamber with reports, without,
or none, carried through the request row (exec_answered). -/
theorem statusAndReportRequests : Obligations.StatusAndReportRequests := by
  refine ⟨fun s f target page hs hk hb => ⟨fun hp => ?_, fun hp => ?_⟩, fun s f hs hk => ⟨?_, ?_, ?_⟩⟩
  · obtain ⟨data, hd⟩ := Option.isSome_iff_exists.1 ((statPage_isSome_iff s _ _).2 hp)
    exact ⟨data, hd, exec_answered rfl hk hs (hb ▸ actStat_some hd)⟩
  · have none := Option.not_isSome_iff_eq_none.1 (fun h => hp ((statPage_isSome_iff s _ _).1 h))
    exact refuses_of_refuse rfl hk hs (hb ▸ actStat_none none)
  · intro c r rest hb hr
    exact exec_answered rfl hk hs (actRpt_cons (hb ▸ bodyChamber_u8 c) hr)
  · intro c hb hr
    exact refuses_of_refuse rfl hk hs (actRpt_nil (hb ▸ bodyChamber_u8 c) hr)
  · intro n hn hb
    refine refuses_of_refuse rfl hk hs (onChamber_none ?_ _ _)
    rw [hb, bodyChamber, field_cons_zero_one]
    exact oneBased_eq_none.2 hn

end Sys2Proof.Machine
end

section
namespace Sys2Proof.Machine

open Host (Outcome)

/-! # STEP (R27, R28) -/

section
variable {s : State} {f : Frame} {c : Chamber}

/-- The tests of a STEP see nothing of the request buffer. -/
theorem stepRefusal_popFrame (s : State) (c : Chamber) (k : Kind) (body : List Byte) :
    stepRefusal (popFrame s) c k body = stepRefusal s c k body := rfl

@[simp] theorem popFrame_ch (s : State) (c : Chamber) : (popFrame s).ch c = s.ch c := rfl

/-- STEP of a chamber that is named, by R28's tests 3 and 4. -/
theorem actStep_of_chamber {body : List Byte} (hl : stepLengthOk body = true) (hc : bodyChamber body = some c) (s : State) :
    actStep body s = tested [(takesStep (s.ch c), .state), (((s.ch c).slot (s.ch c).loadPtr).isNone, .slotsFull)] s
      (judgeStep c body s) := by
  simp [actStep, hl, onChamber, hc]

theorem takesStep_iff (q : Csq) : takesStep q = true ↔ q.state = .ready ∨ q.state = .running ∨ q.state = .held := by
  simp [takesStep, or_assoc]

/-- STEP of a chamber that may take one, with room, is judged by its kind and tests 6 to 12 (R28). -/
theorem actStep_judged {body : List Byte} (hl : stepLengthOk body = true) (hc : bodyChamber body = some c)
    (ht : takesStep (s.ch c) = true) (room : (s.ch c).slot (s.ch c).loadPtr = none) : actStep body s = judgeStep c body s := by
  simp [actStep_of_chamber hl hc, tested, refusal, ht, room]

/-- The body of a STEP's ACK (R27). -/
def stepAck (s : State) (c : Chamber) (k : Kind) (body : List Byte) : List Byte :=
  u16 (storedRecord s c k body).id ++ u8 (s.ch c).loadPtr.code ++ u8 (storedRecord s c k body).warnings.bits

/-- A STEP that passes all tests is loaded (R27). -/
theorem judgeStep_accepts {body : List Byte} {k : Kind} (hk : stepKindOf body = some k) (hr : stepRefusal s c k body = none) :
    judgeStep c body s = accept (stepAck s c k body) (loadStep c (storedRecord s c k body) s) := by
  simp only [judgeStep, hk, hr, stepAck]

/-- Behind a running step the record is placed and nothing starts (R27, R35). -/
theorem loadStep_running (hs : (s.ch c).state = .running) (r : StepRec) :
    loadStep c r s = s.modCh c (fun q => { q.setSlot q.loadPtr (some r) with loadPtr := q.loadPtr.other }) := by
  simp [loadStep, Csq.running, hs]

end

/-- Settles O24: the request's owner loads the record (judgeStep_accepts), and behind a running step that is all (loadStep_running). -/
theorem stepLoadsBehindRunningStep : Obligations.StepLoadsBehindRunningStep := by
  intro s f c k hs hk hl hc hkind run room hr
  refine exec_answered rfl hk hs ?_
  have takes : takesStep ((popFrame s).ch c) = true := (takesStep_iff _).2 (.inr (.inl run))
  rw [actStep_judged hl hc takes room, judgeStep_accepts (s := popFrame s) hkind hr,
    loadStep_running (s := popFrame s) run]
  rfl

end Sys2Proof.Machine
end

section
namespace Sys2Proof.Machine

open Host (Outcome)

/-! # R28's tests 6 to 12, as the model runs them and as the statement lists them -/

/-! ## The first test that fails -/

/-- Two lists of tests agree, place by place: the same code, and, where all tests before hold, the same condition. -/
def Agree : List (Bool × Nak) → List (Prop × Nak) → Prop
  | [], [] => True
  | b :: bs, p :: ps => b.2 = p.2 ∧ (b.1 = true ↔ p.1) ∧ (p.1 → Agree bs ps)
  | _, _ => False

theorem refusal_eq_none_iff {bs : List (Bool × Nak)} {ps : List (Prop × Nak)} (h : Agree bs ps) :
    refusal bs = none ↔ ∀ x ∈ ps, x.1 := by
  induction bs generalizing ps with
  | nil => cases ps <;> simp_all [Agree, refusal]
  | cons b bs ih =>
    cases ps with
    | nil => exact h.elim
    | cons p ps =>
      obtain ⟨_, same, rest⟩ := h
      rw [refusal, List.forall_mem_cons]
      by_cases hp : p.1
      · rw [if_pos (same.2 hp), ih (rest hp)]
        exact (and_iff_right hp).symm
      · rw [if_neg (mt same.1 hp)]
        simp [hp]

theorem refusal_eq_some {bs : List (Bool × Nak)} {before after : List (Prop × Nak)} {test : Prop} {code : Nak}
    (h : Agree bs (before ++ (test, code) :: after)) (pass : ∀ x ∈ before, x.1) (fail : ¬test) : refusal bs = some code := by
  induction before generalizing bs with
  | nil =>
    cases bs with
    | nil => exact h.elim
    | cons b bs =>
      obtain ⟨hcode, same, _⟩ := h
      rw [refusal, if_neg (mt same.1 fail), hcode]
  | cons p before ih =>
    cases bs with
    | nil => exact h.elim
    | cons b bs =>
      obtain ⟨_, same, rest⟩ := h
      have hp := pass p List.mem_cons_self
      rw [refusal, if_pos (same.2 hp)]
      exact ih (rest hp) (fun x hx => pass x (List.mem_cons_of_mem _ hx))

theorem refusal_append (xs ys : List (Bool × Nak)) : refusal (xs ++ ys) = (refusal xs).or (refusal ys) := by
  induction xs with
  | nil => rfl
  | cons x xs ih =>
    rw [List.cons_append, refusal, refusal]
    split
    · exact ih
    · rfl

/-! ## The entries of the used sets (R26, R183) -/

/-- A gas entry as sent, as a pair. -/
def RawEntry.pair (e : RawEntry) : Nat × Nat := (e.line, e.flow)

theorem rawEntries_pairs (body : List Byte) (off n : Nat) : (rawEntries body off n).map RawEntry.pair
    = (List.range n).map (fun i => (field body (off + 3 * i) 1, field body (off + 1 + 3 * i) 2)) := by
  induction n generalizing off with
  | zero => rfl
  | succ n ih =>
    rw [rawEntries, List.map_cons, ih, List.range_succ_eq_map, List.map_cons, List.map_map]
    refine congrArg₂ _ rfl (List.map_congr_left (fun i _ => ?_))
    simp only [Function.comp_apply, Prod.mk.injEq]
    constructor <;> congr 1 <;> omega

theorem sentA_eq (k : Kind) (body : List Byte) : sentA k body = (usedA k body).map RawEntry.pair := by
  unfold sentA usedA usesA countA
  split
  · rw [rawEntries_pairs]
  · rfl

theorem sentB_eq (k : Kind) (body : List Byte) : sentB k body = (usedB k body).map RawEntry.pair := by
  unfold sentB usedB usesB countA countB
  by_cases hk : k = .cycle
  · rw [if_pos hk, if_pos (by simpa using hk), rawEntries_pairs]
    refine List.map_congr_left (fun i _ => ?_)
    simp only [Prod.mk.injEq]
    constructor <;> congr 1 <;> omega
  · rw [if_neg hk, if_neg (by simpa using hk)]
    rfl

/-- The entries a STEP of the kind uses, of both sets. -/
def usedGas (k : Kind) (body : List Byte) : List RawEntry := usedA k body ++ usedB k body

theorem sent_eq (k : Kind) (body : List Byte) : sentA k body ++ sentB k body = (usedGas k body).map RawEntry.pair := by
  rw [sentA_eq, sentB_eq, usedGas, List.map_append]

theorem sent_ne_nil (k : Kind) (body : List Byte) : sentA k body ++ sentB k body ≠ [] ↔ usedGas k body ≠ [] := by
  rw [sent_eq, ne_eq, List.map_eq_nil_iff]

theorem mem_rawLines {es : List RawEntry} {l : Line} : l ∈ rawLines es ↔ ∃ e ∈ es, e.line = l.val + 1 := by
  simp [rawLines, List.mem_filterMap, oneBased_eq_some]

/-- The lines that the used sets name are those their entries resolve to. -/
theorem named_iff {k : Kind} {body : List Byte} {l : Line} : Named k body l ↔ l ∈ rawLines (usedGas k body) := by
  rw [Named, sent_eq, mem_rawLines]
  simp [RawEntry.pair]

/-- Entries whose numbers are lines' resolve each to its line. -/
theorem rawLines_numbers {es : List RawEntry} (h : ∀ e ∈ es, 1 ≤ e.line ∧ e.line ≤ 12) :
    (rawLines es).map (fun l => l.val + 1) = es.map (·.line) := by
  induction es with
  | nil => rfl
  | cons e es ih =>
    obtain ⟨⟨one, twelve⟩, rest⟩ := List.forall_mem_cons.1 h
    have line : oneBased 12 e.line = some ⟨e.line - 1, by omega⟩ := oneBased_eq_some.2 (by simp only; omega)
    have ih := ih rest
    unfold rawLines at ih ⊢
    rw [List.filterMap_cons_some (f := fun e : RawEntry => oneBased 12 e.line) line, List.map_cons, List.map_cons, ih]
    exact congrArg₂ _ (by simp only; omega) rfl

theorem rawLines_nodup {es : List RawEntry} (h : ∀ e ∈ es, 1 ≤ e.line ∧ e.line ≤ 12) :
    (rawLines es).Nodup ↔ ((es.map RawEntry.pair).map (·.1)).Nodup := by
  rw [List.map_map, show ((·.1) ∘ RawEntry.pair : RawEntry → Nat) = (·.line) from rfl, ← rawLines_numbers h]
  exact (List.nodup_map_iff (fun a b hab => Fin.ext (by simpa using hab))).symm

/-! ## Lines, channels, classes -/

theorem configured_iff {s : State} {l : Line} : configured s l = true ↔ s.cfg.lines.look l ≠ none := by
  simp [configured, Option.isSome_iff_ne_none]

theorem channelOf_isSome_iff {s : State} {c : Chamber} {l : Line} : (channelOf s c l).isSome = true ↔ boundHere s c l := by
  simp [channelOf, boundHere, List.find?_isSome]

theorem flowPolled_iff {s : State} {c : Chamber} {l : Line} : flowPolled s c l = true ↔ Polled s c l := by
  unfold flowPolled Polled
  split <;> rename_i h <;> simp [h]

/-- Configured lines are compatible where their classes are (R95). -/
theorem linesCompatible_iff {s : State} {l m : Line} (hl : s.cfg.lines.look l ≠ none) (hm : s.cfg.lines.look m ≠ none) :
    linesCompatible s l m = true ↔ ∀ i j, classOf s l = some i → classOf s m = some j → compatible s i j = true := by
  obtain ⟨a, ha⟩ := Option.ne_none_iff_exists'.1 hl
  obtain ⟨d, hd⟩ := Option.ne_none_iff_exists'.1 hm
  simp [linesCompatible, classOf, ha, hd]

/-! ## The tests -/

/-- R28's tests 6 to 12 as the model runs them, test 11 in its three parts. -/
def stepChecks (s : State) (c : Chamber) (k : Kind) (body : List Byte) : List (Bool × Nak) :=
  let raw := usedGas k body
  let ls := rawLines raw
  let noGas := decide (raw = [])
  let purge := (s.cfg.chambers.look c).purgeLine
  [(raw.all (fun e => within e.line 1 12), .badTarget),
   (decide (rawLines (usedA k body)).Nodup && decide (rawLines (usedB k body)).Nodup, .duplicate),
   (ls.all (configured s), .notConfigured),
   (ls.all (fun l => (channelOf s c l).isSome), .noChannel),
   (ls.all (flowPolled s c) && (!(decide (k = .plasma) || decide (k = .cycle)) ||
     (findEntry s (.chamber c) .source).isSome), .notConfigured),
   (noGas || purge.any (configured s), .notConfigured),
   (noGas || purge.all (fun l => (channelOf s c l).isSome), .noChannel),
   (noGas || purge.all (flowPolled s c), .notConfigured),
   (ls.all (fun l => ls.all (fun m => decide (l = m) || linesCompatible s l m)), .incompatible)]

/-- R28 test 11 as three tests. -/
theorem purgeRefusal_eq (s : State) (c : Chamber) (raw : List RawEntry) : purgeRefusal s c (decide (raw ≠ [])) =
    refusal [(decide (raw = []) || (s.cfg.chambers.look c).purgeLine.any (configured s), .notConfigured),
      (decide (raw = []) || (s.cfg.chambers.look c).purgeLine.all (fun l => (channelOf s c l).isSome), .noChannel),
      (decide (raw = []) || (s.cfg.chambers.look c).purgeLine.all (flowPolled s c), .notConfigured)] := by
  unfold purgeRefusal
  by_cases h : raw = []
  · simp [h, refusal]
  · cases (s.cfg.chambers.look c).purgeLine <;> simp [h, refusal]

theorem stepRefusal_eq (s : State) (c : Chamber) (k : Kind) (body : List Byte) :
    stepRefusal s c k body = refusal (stepChecks s c k body) := by
  have cut : stepChecks s c k body = (stepChecks s c k body).take 5 ++ (((stepChecks s c k body).drop 5).take 3 ++
    (stepChecks s c k body).drop 8) := rfl
  rw [cut, refusal_append, refusal_append]
  simp only [stepChecks, List.take, List.drop]
  rw [← purgeRefusal_eq s c (usedGas k body)]
  unfold stepRefusal usedGas
  dsimp only
  split <;> rename_i first
  · rw [first]; rfl
  · rw [first, Option.none_or]
    split <;> rename_i purge
    · rw [purge]; rfl
    · rw [purge, Option.none_or]

/-- The model's tests are the statement's. Distinctness is judged by lines once every number is a line's, and compatibility by
classes once every line is configured. -/
theorem stepChecks_agree (s : State) (c : Chamber) (k : Kind) (body : List Byte) :
    Agree (stepChecks s c k body) (stepTests s c k body) := by
  have gas : sentA k body ++ sentB k body ≠ [] ↔ ¬usedGas k body = [] := sent_ne_nil k body
  have numbers : (∀ x ∈ sentA k body ++ sentB k body, 1 ≤ x.1 ∧ x.1 ≤ 12) ↔ ∀ e ∈ usedGas k body, 1 ≤ e.line ∧ e.line ≤ 12 := by
    rw [sent_eq]; simp [RawEntry.pair]
  refine ⟨rfl, ?_, fun valid => ⟨rfl, ?_, fun _ => ⟨rfl, ?_, fun conf => ⟨rfl, ?_, fun _ => ⟨rfl, ?_, fun _ => ⟨rfl, ?_, fun _ =>
    ⟨rfl, ?_, fun _ => ⟨rfl, ?_, fun _ => ⟨rfl, ?_, fun _ => trivial⟩⟩⟩⟩⟩⟩⟩⟩⟩
  · simp only [List.all_eq_true, within, Bool.and_eq_true, decide_eq_true_eq]
    exact numbers.symm
  · have all := numbers.1 valid
    have inA : ∀ e ∈ usedA k body, 1 ≤ e.line ∧ e.line ≤ 12 := fun e he => all e (List.mem_append_left _ he)
    have inB : ∀ e ∈ usedB k body, 1 ≤ e.line ∧ e.line ≤ 12 := fun e he => all e (List.mem_append_right _ he)
    simp only [Bool.and_eq_true, decide_eq_true_eq]
    rw [rawLines_nodup inA, rawLines_nodup inB, sentA_eq, sentB_eq]
  · simp only [List.all_eq_true, configured_iff, named_iff]
  · simp only [List.all_eq_true, channelOf_isSome_iff, named_iff]
  · simp only [Bool.and_eq_true, List.all_eq_true, flowPolled_iff, named_iff, Bool.or_eq_true, Bool.not_eq_true', Bool.or_eq_false_iff,
      decide_eq_false_iff_not, imp_iff_not_or, not_or]
  · simp only [Bool.or_eq_true, decide_eq_true_eq, Option.any_eq_true, configured_iff, gas, imp_iff_not_or, not_not]
  · simp only [Bool.or_eq_true, decide_eq_true_eq, Option.all_eq_true, channelOf_isSome_iff, gas, imp_iff_not_or, not_not]
  · simp only [Bool.or_eq_true, decide_eq_true_eq, Option.all_eq_true, flowPolled_iff, gas, imp_iff_not_or, not_not]
  · simp only [List.all_eq_true, Bool.or_eq_true, decide_eq_true_eq, named_iff]
    refine ⟨fun h l m hl hm ne => ?_, fun h l hl m hm => or_iff_not_imp_left.2 (fun ne => ?_)⟩
    · exact (linesCompatible_iff (conf l (named_iff.2 hl)) (conf m (named_iff.2 hm))).1 ((h l hl m hm).resolve_left ne)
    · exact (linesCompatible_iff (conf l (named_iff.2 hl)) (conf m (named_iff.2 hm))).2 (h l m hl hm ne)

/-- A STEP passes R28's tests 6 to 12 exactly where the model refuses it for none of them. -/
theorem stepRefusal_eq_none_iff {s : State} {c : Chamber} {k : Kind} {body : List Byte} :
    stepRefusal s c k body = none ↔ ∀ x ∈ stepTests s c k body, x.1 := by
  rw [stepRefusal_eq, refusal_eq_none_iff (stepChecks_agree s c k body)]

/-- The first of R28's tests 6 to 12 that fails gives its code. -/
theorem stepRefusal_eq_some {s : State} {c : Chamber} {k : Kind} {body : List Byte} {before after : List (Prop × Nak)} {test : Prop}
    {code : Nak} (h : stepTests s c k body = before ++ (test, code) :: after) (pass : ∀ x ∈ before, x.1) (fail : ¬test) :
    stepRefusal s c k body = some code := by
  rw [stepRefusal_eq]
  exact refusal_eq_some (h ▸ stepChecks_agree s c k body) pass fail

end Sys2Proof.Machine
end

section
namespace Sys2Proof.Machine

open Host (Outcome)

/-! # The reply of a request whose owner acts (R174, R176) -/

theorem Svl.transmit_busy {v : Svl} (h : v.tx.isSome = true) : v.transmit = v := by
  unfold Svl.transmit
  rw [if_pos h]

theorem Svl.transmit_reply {v : Svl} {r : Reply} (h : v.tx.isSome = false) (hr : v.reply = some r) :
    v.transmit = { v with reply := none, tx := some (replyFrame r) } := by
  unfold Svl.transmit
  simp only [h, hr, Bool.false_eq_true, if_false]

/-- The owner's act and the service run leave the reply in its slot, and an idle transmitter takes it. -/
theorem answered_finish {s u : State} {f : Frame} {r : ReplyBody} {ev : List EventRec} {lost : Bool}
    (h : u.svl = { (popFrame s).svl with events := ev, eventsLost := lost }) : Answered s (finish (putReply f r u)) f r := by
  have served := (keeps_runService (Keeps.refl (putReply f r u))).svl
  have before : u.svl.buffer = s.svl.buffer.tail ∧ u.svl.tx = s.svl.tx := by rw [h]; exact ⟨rfl, rfl⟩
  have buffer : (runService (putReply f r u)).svl.buffer = s.svl.buffer.tail :=
    (congrArg Svl.buffer served).trans before.1
  have tx : (runService (putReply f r u)).svl.tx = s.svl.tx := (congrArg Svl.tx served).trans before.2
  have reply : (runService (putReply f r u)).svl.reply = some { tag := f.tag, body := r } := congrArg Svl.reply served
  refine ⟨?_, ?_⟩
  · exact (Svl.transmit_buffer _).trans buffer
  · unfold finish
    rw [State.modSvl_svl]
    split
    · rename_i busy
      rw [Svl.transmit_busy (tx ▸ busy)]
      exact ⟨reply, tx⟩
    · rename_i idle
      rw [Svl.transmit_reply (tx ▸ Bool.eq_false_iff.2 idle) reply]
      exact ⟨rfl, rfl⟩

/-- Loading a STEP moves nothing of the SVL but its event queue. -/
theorem loadStep_svl (c : Chamber) (r : StepRec) (s : State) :
    ∃ ev lost, (loadStep c r s).svl = { s.svl with events := ev, eventsLost := lost } := by
  unfold loadStep
  dsimp only
  split
  · exact ⟨_, _, rfl⟩
  · exact ⟨_, _, (keeps_startStep (Keeps.refl _) c).svl⟩

/-! ## STEP's refusals -/

section
variable {s : State} {f : Frame} (served : Served s) (asks : Asks s .step f)
include served asks

/-- A STEP that its owner refuses changes nothing else. -/
theorem step_refuses {n : Nak} (h : actStep f.body (popFrame s) = refuse n (popFrame s)) : Refuses .step s f n :=
  refuses_of_refuse rfl asks served h

omit served in
/-- A STEP that passes every test is answered with an ACK (R27). -/
theorem step_accepted {c : Chamber} {k : Kind} (hl : stepLengthOk f.body = true) (hc : bodyChamber f.body = some c)
    (takes : takesStep (s.ch c) = true) (room : (s.ch c).slot (s.ch c).loadPtr = none) (hk : stepKindOf f.body = some k)
    (hr : stepRefusal s c k f.body = none) : ∃ t data, exec .step s = .next t ∧ Answered s t f (.ack data) := by
  have act : actStep f.body (popFrame s) =
      accept (stepAck (popFrame s) c k f.body) (loadStep c (storedRecord s c k f.body) (popFrame s)) :=
    (actStep_judged (s := popFrame s) hl hc takes room).trans (judgeStep_accepts hk hr)
  obtain ⟨ev, lost, same⟩ := loadStep_svl c (storedRecord s c k f.body) (popFrame s)
  refine ⟨_, stepAck (popFrame s) c k f.body, ?_, answered_finish same⟩
  exact congrArg (fun u => Outcome.next (finish u)) ((request_of_asks asks actStep).trans (by rw [act]; rfl))

end

/-- Settles O25: each test in turn as the owner runs it; tests 6 to 12 are the statement's by stepChecks_agree. -/
theorem refusedStepChangesNothing : Obligations.RefusedStepChangesNothing := by
  intro s f served asks
  refine ⟨fun hl => ?_, fun hl hc => ?_, fun c hl hc => ⟨fun state => ?_, fun state => ⟨fun full => ?_, fun room => ?_⟩⟩⟩
  · exact step_refuses served asks (by simp [actStep, hl])
  · exact step_refuses served asks (by simp [actStep, hl, onChamber_none hc])
  · have takes : takesStep (s.ch c) = false := by rcases state with h | h <;> simp [takesStep, h]
    exact step_refuses served asks (by simp [actStep_of_chamber hl hc, tested, refusal, takes])
  · have takes := (takesStep_iff _).2 state
    exact step_refuses served asks (by simp [actStep_of_chamber hl hc, tested, refusal, takes, full])
  · have takes := (takesStep_iff _).2 state
    have judged : actStep f.body (popFrame s) = judgeStep c f.body (popFrame s) := actStep_judged hl hc takes room
    have refused : ∀ k n, stepKindOf f.body = some k → stepRefusal s c k f.body = some n → Refuses .step s f n :=
      fun k n hk hn => step_refuses served asks (by rw [judged]; simp only [judgeStep, hk, stepRefusal_popFrame, hn])
    refine ⟨fun hk => ?_, refused, fun k hk => ⟨fun before test code after list pass fail => ?_, fun all => ?_⟩⟩
    · exact step_refuses served asks (by rw [judged]; simp only [judgeStep, hk])
    · exact refused k code hk (stepRefusal_eq_some list pass fail)
    · have none := stepRefusal_eq_none_iff.2 all
      exact ⟨none, step_accepted asks hl hc takes room hk none⟩

end Sys2Proof.Machine
end

section
namespace Sys2Proof.Machine

/-! # The stored step record (R25, R29 to R34) -/

/-! ## Clamps (R31 to R33) -/

theorem clampTo_eq_clip {lo hi : Nat} (h : lo ≤ hi) (n : Nat) : clampTo lo hi n = clip lo hi n := by
  unfold clampTo clip
  split
  · omega
  · split <;> omega

theorem clampTo_mem {lo hi : Nat} (h : lo ≤ hi) (n : Nat) : lo ≤ clampTo lo hi n ∧ clampTo lo hi n ≤ hi := by
  unfold clampTo
  omega

/-- A bias power as it is stored: 0 without a BIAS entry, limited with one (R32). -/
def limitBias (s : State) (c : Chamber) (n : Nat) : Nat :=
  if (findEntry s (.chamber c) .bias).isNone then 0 else min n (s.cfg.chambers.look c).biasMax

theorem limitBias_none {s : State} {c : Chamber} (h : findEntry s (.chamber c) .bias = none) (n : Nat) : limitBias s c n = 0 := by
  simp [limitBias, h]

theorem limitBias_some {s : State} {c : Chamber} (h : ¬findEntry s (.chamber c) .bias = none) (n : Nat) :
    limitBias s c n = min n (s.cfg.chambers.look c).biasMax := by
  simp [limitBias, h]

theorem limitBias_le (s : State) (c : Chamber) (n : Nat) : limitBias s c n ≤ (s.cfg.chambers.look c).biasMax := by
  unfold limitBias
  split <;> omega

/-- The kinds that settle, that last a duration and that use power (R26). -/
abbrev Kind.settles (k : Kind) : Prop := k = .stabilize ∨ k = .plasma ∨ k = .cycle
abbrev Kind.lasts (k : Kind) : Prop := k = .stabilize ∨ k = .plasma ∨ k = .purge
abbrev Kind.powered (k : Kind) : Prop := k = .plasma ∨ k = .cycle

/-- What the clamps do, field by field: each field is clamped for the kinds that use it and stays as sent for the others. -/
theorem clampRecord_eq (s : State) (c : Chamber) (r : StepRec) :
    let p := s.cfg.chambers.look c
    clampRecord s c r =
      { r with
        targetA := if r.kind = .pumpdown then clampTo 1 p.crossover r.targetA
          else if r.kind = .vent then r.targetA else clampTo p.minControl p.maxControl r.targetA
        targetB := if r.kind = .cycle then clampTo p.minControl p.maxControl r.targetB else r.targetB
        tolerance := if r.kind.settles then clampTo 1 50 r.tolerance else r.tolerance
        settleMs := if r.kind.settles then clampTo 0 60000 r.settleMs else r.settleMs
        sourceA := if r.kind.powered then min r.sourceA p.sourceMax else r.sourceA
        sourceB := if r.kind = .cycle then min r.sourceB p.sourceMax else r.sourceB
        biasA := if r.kind.powered then limitBias s c r.biasA else r.biasA
        biasB := if r.kind = .cycle then limitBias s c r.biasB else r.biasB
        durationMs := if r.kind.lasts then clampTo 100 3600000 r.durationMs else r.durationMs
        maskMs := if r.kind = .plasma ∧ r.endMode = .endpoint then clampTo 0 600000 r.maskMs else r.maskMs
        overetchPct := if r.kind = .plasma ∧ r.endMode = .endpoint then clampTo 0 200 r.overetchPct else r.overetchPct
        phaseAMs := if r.kind = .cycle then clampTo 20 60000 r.phaseAMs else r.phaseAMs
        phaseBMs := if r.kind = .cycle then clampTo 20 60000 r.phaseBMs else r.phaseBMs
        firstExtMs := if r.kind = .cycle then clampTo 0 10000 r.firstExtMs else r.firstExtMs
        cycleCount := if r.kind = .cycle then clampTo 1 65535 r.cycleCount else r.cycleCount } := by
  obtain ⟨id, kind, _, _, _, _, _, _, _, _, _, _, _, endMode, _⟩ := r
  cases kind with
  | plasma => cases endMode <;> rfl
  | _ => rfl

end Sys2Proof.Machine
end

section
namespace Sys2Proof.Machine

section
variable (s : State) (c : Chamber) (k : Kind) (body : List Byte)

/-! ## The fields of a stored record -/

theorem storedRecord_targetA : (storedRecord s c k body).targetA =
    if k = .pumpdown then clampTo 1 (s.cfg.chambers.look c).crossover (field body 7 4)
    else if k = .vent then field body 7 4
    else clampTo (s.cfg.chambers.look c).minControl (s.cfg.chambers.look c).maxControl (field body 7 4) :=
  congrArg StepRec.targetA (clampRecord_eq s c (sentRecord s c k body))

theorem storedRecord_targetB : (storedRecord s c k body).targetB =
    if k = .cycle then clampTo (s.cfg.chambers.look c).minControl (s.cfg.chambers.look c).maxControl (field body 11 4)
    else field body 11 4 := congrArg StepRec.targetB (clampRecord_eq s c (sentRecord s c k body))

theorem storedRecord_tolerance : (storedRecord s c k body).tolerance =
    if k.settles then clampTo 1 50 (field body 15 1) else field body 15 1 :=
  congrArg StepRec.tolerance (clampRecord_eq s c (sentRecord s c k body))

theorem storedRecord_settleMs : (storedRecord s c k body).settleMs =
    if k.settles then clampTo 0 60000 (field body 16 4) else field body 16 4 :=
  congrArg StepRec.settleMs (clampRecord_eq s c (sentRecord s c k body))

theorem storedRecord_sourceA : (storedRecord s c k body).sourceA =
    if k.powered then min (field body 20 2) (s.cfg.chambers.look c).sourceMax else field body 20 2 :=
  congrArg StepRec.sourceA (clampRecord_eq s c (sentRecord s c k body))

theorem storedRecord_sourceB : (storedRecord s c k body).sourceB =
    if k = .cycle then min (field body 22 2) (s.cfg.chambers.look c).sourceMax else field body 22 2 :=
  congrArg StepRec.sourceB (clampRecord_eq s c (sentRecord s c k body))

theorem storedRecord_biasA : (storedRecord s c k body).biasA =
    if k.powered then limitBias s c (field body 24 2) else field body 24 2 :=
  congrArg StepRec.biasA (clampRecord_eq s c (sentRecord s c k body))

theorem storedRecord_biasB : (storedRecord s c k body).biasB =
    if k = .cycle then limitBias s c (field body 26 2) else field body 26 2 :=
  congrArg StepRec.biasB (clampRecord_eq s c (sentRecord s c k body))

theorem storedRecord_durationMs : (storedRecord s c k body).durationMs =
    if k.lasts then clampTo 100 3600000 (field body 28 4) else field body 28 4 :=
  congrArg StepRec.durationMs (clampRecord_eq s c (sentRecord s c k body))

theorem storedRecord_endMode : (storedRecord s c k body).endMode = if field body 4 1 = 1 then .endpoint else .time :=
  congrArg StepRec.endMode (clampRecord_eq s c (sentRecord s c k body))

theorem storedRecord_maskMs : (storedRecord s c k body).maskMs =
    if k = .plasma ∧ (storedRecord s c k body).endMode = .endpoint then clampTo 0 600000 (field body 32 4)
    else field body 32 4 := by
  rw [storedRecord_endMode]
  exact congrArg StepRec.maskMs (clampRecord_eq s c (sentRecord s c k body))

theorem storedRecord_overetchPct : (storedRecord s c k body).overetchPct =
    if k = .plasma ∧ (storedRecord s c k body).endMode = .endpoint then clampTo 0 200 (field body 36 2)
    else field body 36 2 := by
  rw [storedRecord_endMode]
  exact congrArg StepRec.overetchPct (clampRecord_eq s c (sentRecord s c k body))

theorem storedRecord_phaseAMs : (storedRecord s c k body).phaseAMs =
    if k = .cycle then clampTo 20 60000 (field body 38 4) else field body 38 4 :=
  congrArg StepRec.phaseAMs (clampRecord_eq s c (sentRecord s c k body))

theorem storedRecord_phaseBMs : (storedRecord s c k body).phaseBMs =
    if k = .cycle then clampTo 20 60000 (field body 42 4) else field body 42 4 :=
  congrArg StepRec.phaseBMs (clampRecord_eq s c (sentRecord s c k body))

theorem storedRecord_firstExtMs : (storedRecord s c k body).firstExtMs =
    if k = .cycle then clampTo 0 10000 (field body 46 4) else field body 46 4 :=
  congrArg StepRec.firstExtMs (clampRecord_eq s c (sentRecord s c k body))

theorem storedRecord_cycleCount : (storedRecord s c k body).cycleCount =
    if k = .cycle then clampTo 1 65535 (field body 50 2) else field body 50 2 :=
  congrArg StepRec.cycleCount (clampRecord_eq s c (sentRecord s c k body))

/-- What the clamps leave as it was sent. -/
theorem storedRecord_unclamped :
    (storedRecord s c k body).kind = k ∧ (storedRecord s c k body).id = field body 1 2 ∧
    (storedRecord s c k body).arcLimit = field body 52 1 ∧
    (storedRecord s c k body).setA = (loadSet s c (usedA k body)).map (·.1) ∧
    (storedRecord s c k body).setB = (loadSet s c (usedB k body)).map (·.1) ∧
    (storedRecord s c k body).purge = (loadPurge s c (decide (usedGas k body ≠ []))).map (·.1) := by
  have e := clampRecord_eq s c (sentRecord s c k body)
  exact ⟨congrArg StepRec.kind e, congrArg StepRec.id e, congrArg StepRec.arcLimit e, congrArg StepRec.setA e,
    congrArg StepRec.setB e, congrArg StepRec.purge e⟩

/-! ## Warnings (R34) -/

/-- The gas entries of a STEP as they are loaded, the purge entry behind the used sets (R25, R29). -/
def loadedGas : List (GasEntry × Warnings) :=
  loadSet s c (usedA k body) ++ loadSet s c (usedB k body) ++ (loadPurge s c (decide (usedGas k body ≠ []))).toList

end

theorem foldl_or {g : Warnings → Bool} (hg : ∀ a b, g (a.or b) = (g a || g b)) (ws : List Warnings) (w : Warnings) :
    g (ws.foldl Warnings.or w) = (g w || ws.any g) := by
  induction ws generalizing w with
  | nil => simp
  | cons x ws ih => rw [List.foldl_cons, ih, hg, List.any_cons, Bool.or_assoc]

/-- A warning stands in a stored record where an entry's load raises it or the clamps do. -/
theorem storedRecord_warning {g : Warnings → Bool} (hg : ∀ a b, g (a.or b) = (g a || g b)) (h0 : g Warnings.none = false)
    (s : State) (c : Chamber) (k : Kind) (body : List Byte) : g (storedRecord s c k body).warnings =
      ((loadedGas s c k body).any (fun x => g x.2) || g (clampWarnings (sentRecord s c k body) (storedRecord s c k body))) := by
  have sent : (sentRecord s c k body).warnings = ((loadedGas s c k body).map (·.2)).foldl Warnings.or Warnings.none := by
    simp [loadedGas, sentRecord, usedGas, Option.toList_map]
  change g ((sentRecord s c k body).warnings.or _) = _
  rw [hg, sent, foldl_or hg, h0, List.any_map]
  rfl

/-- A load raises FLOW_CLAMPED and FLOW_RAISED only. -/
theorem loadEntry_flow {s : State} {c : Chamber} {l : Line} {n : Nat} {x : GasEntry × Warnings} (h : loadEntry s c l n = some x) :
    x.1.flow = min n Config.flowMax ∧ ∃ a b, x.2 = ⟨a, b, false, false, false, false⟩ := by
  unfold loadEntry at h
  split at h
  · cases h
    exact ⟨rfl, _, _, rfl⟩
  · cases h

theorem mem_loadSet {s : State} {c : Chamber} {es : List RawEntry} {x : GasEntry × Warnings} (h : x ∈ loadSet s c es) :
    ∃ l n, loadEntry s c l n = some x := by
  obtain ⟨e, _, he⟩ := List.mem_filterMap.1 h
  obtain ⟨l, _, hl⟩ := Option.bind_eq_some_iff.1 he
  exact ⟨l, e.flow, hl⟩

theorem mem_loadPurge {s : State} {c : Chamber} {anyGas : Bool} {x : GasEntry × Warnings}
    (h : x ∈ (loadPurge s c anyGas).toList) : ∃ l n, loadEntry s c l n = some x := by
  rw [Option.mem_toList] at h
  unfold loadPurge at h
  split at h
  · obtain ⟨l, _, hl⟩ := Option.bind_eq_some_iff.1 h
    exact ⟨l, _, hl⟩
  · cases h

theorem mem_loadedGas {s : State} {c : Chamber} {k : Kind} {body : List Byte} {x : GasEntry × Warnings}
    (h : x ∈ loadedGas s c k body) : ∃ l n, loadEntry s c l n = some x := by
  rcases List.mem_append.1 h with sets | purge
  · rcases List.mem_append.1 sets with a | b
    · exact mem_loadSet a
    · exact mem_loadSet b
  · exact mem_loadPurge purge

/-- A warning that is none of a load's stands where the clamps raise it. -/
theorem storedRecord_clampWarning {g : Warnings → Bool} (hg : ∀ a b, g (a.or b) = (g a || g b))
    (hflow : ∀ a b, g ⟨a, b, false, false, false, false⟩ = false) (s : State) (c : Chamber) (k : Kind) (body : List Byte) :
    g (storedRecord s c k body).warnings = g (clampWarnings (sentRecord s c k body) (storedRecord s c k body)) := by
  rw [storedRecord_warning hg (hflow false false), List.any_eq_false.2, Bool.false_or]
  intro x hx
  obtain ⟨l, n, hl⟩ := mem_loadedGas hx
  obtain ⟨_, a, b, hw⟩ := loadEntry_flow hl
  rw [hw, hflow]
  exact Bool.false_ne_true

end Sys2Proof.Machine
end

section
namespace Sys2Proof.Machine

/-! ## The load of gas entries (R25, R29, R30) -/

/-- An entry is loaded from a line number and a flow, with its warnings. -/
structure Loads (s : State) (c : Chamber) (sent : Nat × Nat) (x : GasEntry × Warnings) : Prop where
  entry : LoadedAs s c sent x.1
  clamped : x.2.flowClamped = true ↔ EntryClamped s c sent
  raised : x.2.flowRaised = true ↔ EntryRaised s c sent

/-- A line's number, channel and record are one each. -/
theorem resolved_iff {s : State} {c : Chamber} {l : Line} {k : Channel} {r : LineCfg} (hk : channelOf s c l = some k)
    (hr : s.cfg.lines.look l = some r) (p : Channel → LineCfg → Prop) :
    (∃ (l' : Line) (k' : Channel) (r' : LineCfg), l'.val + 1 = l.val + 1 ∧ channelOf s c l' = some k' ∧
      s.cfg.lines.look l' = some r' ∧ p k' r') ↔ p k r := by
  constructor
  · rintro ⟨l', k', r', hl, hk', hr', hp⟩
    obtain rfl : l' = l := Fin.ext (Nat.succ.inj hl)
    cases hk.symm.trans hk'
    cases hr.symm.trans hr'
    exact hp
  · exact fun hp => ⟨l, k, r, rfl, hk, hr, hp⟩

/-- A load of a line with a record and a channel (R29, R30, R98, R99). -/
theorem loadEntry_loads {s : State} {c : Chamber} {l : Line} (conf : s.cfg.lines.look l ≠ none) (bound : boundHere s c l)
    (n : Nat) : ∃ x, loadEntry s c l n = some x ∧ Loads s c (l.val + 1, n) x := by
  obtain ⟨r, hr⟩ := Option.ne_none_iff_exists'.1 conf
  obtain ⟨k, hk⟩ := Option.isSome_iff_exists.1 (channelOf_isSome_iff.2 bound)
  have clamped := resolved_iff hk hr (fun k r => 50000 < n ∨
    (storedCommand (min n 50000) r.gcf ((s.cfg.maps.look c).look k).fs ((s.cfg.maps.look c).look k).floor).2.1 = true)
  have raised := resolved_iff hk hr (fun k r =>
    (storedCommand (min n 50000) r.gcf ((s.cfg.maps.look c).look k).fs ((s.cfg.maps.look c).look k).floor).2.2 = true)
  unfold loadEntry
  rw [hk, hr]
  refine ⟨_, rfl, ⟨rfl, rfl, hk, r, hr, rfl, rfl⟩, ?_, raised.symm⟩
  simp only [Bool.or_eq_true, decide_eq_true_eq]
  exact clamped.symm

/-- Entries that each name a line with a record and a channel are loaded in the order sent. -/
theorem loadSet_loads {s : State} {c : Chamber} {es : List RawEntry}
    (h : ∀ e ∈ es, ∃ l : Line, e.line = l.val + 1 ∧ s.cfg.lines.look l ≠ none ∧ boundHere s c l) :
    List.Forall₂ (Loads s c) (es.map RawEntry.pair) (loadSet s c es) := by
  induction es with
  | nil => exact .nil
  | cons e es ih =>
    obtain ⟨⟨l, hl, conf, bound⟩, rest⟩ := List.forall_mem_cons.1 h
    obtain ⟨x, hx, loads⟩ := loadEntry_loads conf bound e.flow
    have load : (oneBased 12 e.line).bind (fun l => loadEntry s c l e.flow) = some x := by
      rw [oneBased_eq_some.2 hl]
      exact hx
    unfold loadSet at ih ⊢
    rw [List.filterMap_cons_some (f := fun e : RawEntry => (oneBased 12 e.line).bind (fun l => loadEntry s c l e.flow)) load]
    exact .cons (by rw [RawEntry.pair, hl]; exact loads) (ih rest)

/-- The purge entry is loaded beside the sets (R25, R28 test 11). -/
theorem loadPurge_loads {s : State} {c : Chamber} {k : Kind} {body : List Byte}
    (conf : sentA k body ++ sentB k body ≠ [] →
      ∃ l, (s.cfg.chambers.look c).purgeLine = some l ∧ s.cfg.lines.look l ≠ none)
    (bound : sentA k body ++ sentB k body ≠ [] → ∀ l, (s.cfg.chambers.look c).purgeLine = some l → boundHere s c l) :
    List.Forall₂ (Loads s c) (sentPurge s c k body) (loadPurge s c (decide (usedGas k body ≠ []))).toList := by
  unfold sentPurge loadPurge
  by_cases gas : sentA k body ++ sentB k body = []
  · have none : ¬usedGas k body ≠ [] := mt (sent_ne_nil k body).2 (not_not.2 gas)
    simp [gas, none]
  · obtain ⟨l, hl, hconf⟩ := conf gas
    obtain ⟨x, hx, loads⟩ := loadEntry_loads hconf (bound gas l hl) (s.cfg.chambers.look c).purgeFlow
    have some : usedGas k body ≠ [] := (sent_ne_nil k body).1 gas
    simpa [gas, some, hl, hx] using loads

/-- Related lists have the related property together. -/
theorem exists_mem_iff_of_forall₂ {α β : Type} {R : α → β → Prop} {p : α → Prop} {q : β → Prop} {xs : List α} {ys : List β}
    (h : List.Forall₂ R xs ys) (hpq : ∀ x y, R x y → (q y ↔ p x)) : (∃ y ∈ ys, q y) ↔ ∃ x ∈ xs, p x := by
  induction h with
  | nil => simp
  | cons hr _ ih => simp [hpq _ _ hr, ih]

/-- Every entry of a STEP that passes R28's tests 6 to 12 is loaded, and so is the purge entry. -/
theorem loads_of_passed {s : State} {c : Chamber} {k : Kind} {body : List Byte} (pass : stepRefusal s c k body = none) :
    List.Forall₂ (Loads s c) (sentA k body) (loadSet s c (usedA k body)) ∧
    List.Forall₂ (Loads s c) (sentB k body) (loadSet s c (usedB k body)) ∧
    List.Forall₂ (Loads s c) (sentPurge s c k body) (loadPurge s c (decide (usedGas k body ≠ []))).toList := by
  have tests := stepRefusal_eq_none_iff.1 pass
  simp only [stepTests, List.forall_mem_cons] at tests
  obtain ⟨numbers, _, conf, bound, _, purgeConf, purgeBound, _⟩ := tests
  have line : ∀ e ∈ usedGas k body, ∃ l : Line, e.line = l.val + 1 ∧ s.cfg.lines.look l ≠ none ∧ boundHere s c l := by
    intro e he
    have sent : e.pair ∈ sentA k body ++ sentB k body := by
      rw [sent_eq]
      exact List.mem_map_of_mem he
    obtain ⟨one, twelve⟩ : 1 ≤ e.line ∧ e.line ≤ 12 := numbers _ sent
    have number : e.line = (⟨e.line - 1, by omega⟩ : Line).val + 1 := by simp only; omega
    have named : Named k body ⟨e.line - 1, by omega⟩ := ⟨e.pair, sent, number⟩
    exact ⟨_, number, conf _ named, bound _ named⟩
  refine ⟨?_, ?_, loadPurge_loads purgeConf purgeBound⟩
  · rw [sentA_eq]
    exact loadSet_loads (fun e he => line e (List.mem_append_left _ he))
  · rw [sentB_eq]
    exact loadSet_loads (fun e he => line e (List.mem_append_right _ he))

end Sys2Proof.Machine
end

section
namespace Sys2Proof.Machine

/-! ## Which warning stands (R31 to R34) -/

/-- A field that is not as it was sent is one its kind uses. -/
theorem used_of_changed {u : Prop} [Decidable u] {x y sent : Nat} (e : x = if u then y else sent) (h : x ≠ sent) : u := by
  by_contra hu
  exact h (e.trans (if_neg hu))

section
variable (s : State) (c : Chamber) (k : Kind) (body : List Byte)

theorem storedRecord_pressureClamped : (storedRecord s c k body).warnings.pressureClamped = true ↔
    (k ≠ .vent ∧ (storedRecord s c k body).targetA ≠ field body 7 4) ∨
    (k = .cycle ∧ (storedRecord s c k body).targetB ≠ field body 11 4) := by
  have usedA : (storedRecord s c k body).targetA ≠ field body 7 4 → k ≠ .vent := by
    rintro changed rfl
    exact changed (storedRecord_targetA s c .vent body)
  rw [storedRecord_clampWarning (g := (·.pressureClamped)) (fun _ _ => rfl) (fun _ _ => rfl), and_iff_right_of_imp usedA,
    and_iff_right_of_imp (used_of_changed (storedRecord_targetB s c k body))]
  simp only [clampWarnings, Bool.or_eq_true, decide_eq_true_eq]
  exact or_congr ne_comm ne_comm

theorem storedRecord_powerClamped : (storedRecord s c k body).warnings.powerClamped = true ↔
    (k = .plasma ∨ k = .cycle) ∧
      ((storedRecord s c k body).sourceA ≠ field body 20 2 ∨ (storedRecord s c k body).biasA ≠ field body 24 2) ∨
    k = .cycle ∧ ((storedRecord s c k body).sourceB ≠ field body 22 2 ∨ (storedRecord s c k body).biasB ≠ field body 26 2) := by
  rw [storedRecord_clampWarning (g := (·.powerClamped)) (fun _ _ => rfl) (fun _ _ => rfl),
    and_iff_right_of_imp (Or.rec (used_of_changed (storedRecord_sourceA s c k body))
      (used_of_changed (storedRecord_biasA s c k body))),
    and_iff_right_of_imp (Or.rec (used_of_changed (storedRecord_sourceB s c k body))
      (used_of_changed (storedRecord_biasB s c k body)))]
  simp only [clampWarnings, sentRecord, Bool.or_eq_true, decide_eq_true_eq, ne_comm, or_assoc, or_left_comm]

theorem storedRecord_toleranceClamped : (storedRecord s c k body).warnings.toleranceClamped = true ↔
    (k = .stabilize ∨ k = .plasma ∨ k = .cycle) ∧ (storedRecord s c k body).tolerance ≠ field body 15 1 := by
  rw [storedRecord_clampWarning (g := (·.toleranceClamped)) (fun _ _ => rfl) (fun _ _ => rfl),
    and_iff_right_of_imp (used_of_changed (storedRecord_tolerance s c k body))]
  simp only [clampWarnings, decide_eq_true_eq]
  exact ne_comm

theorem storedRecord_timeClamped : (storedRecord s c k body).warnings.timeClamped = true ↔
    (k = .stabilize ∨ k = .plasma ∨ k = .cycle) ∧ (storedRecord s c k body).settleMs ≠ field body 16 4 ∨
    (k = .stabilize ∨ k = .plasma ∨ k = .purge) ∧ (storedRecord s c k body).durationMs ≠ field body 28 4 ∨
    (k = .plasma ∧ (storedRecord s c k body).endMode = .endpoint) ∧
      ((storedRecord s c k body).maskMs ≠ field body 32 4 ∨ (storedRecord s c k body).overetchPct ≠ field body 36 2) ∨
    k = .cycle ∧ ((storedRecord s c k body).phaseAMs ≠ field body 38 4 ∨ (storedRecord s c k body).phaseBMs ≠ field body 42 4 ∨
      (storedRecord s c k body).firstExtMs ≠ field body 46 4 ∨ (storedRecord s c k body).cycleCount ≠ field body 50 2) := by
  rw [storedRecord_clampWarning (g := (·.timeClamped)) (fun _ _ => rfl) (fun _ _ => rfl),
    and_iff_right_of_imp (used_of_changed (storedRecord_settleMs s c k body)),
    and_iff_right_of_imp (used_of_changed (storedRecord_durationMs s c k body)),
    and_iff_right_of_imp (Or.rec (used_of_changed (storedRecord_maskMs s c k body))
      (used_of_changed (storedRecord_overetchPct s c k body))),
    and_iff_right_of_imp (Or.rec (used_of_changed (storedRecord_phaseAMs s c k body))
      (Or.rec (used_of_changed (storedRecord_phaseBMs s c k body))
        (Or.rec (used_of_changed (storedRecord_firstExtMs s c k body))
          (used_of_changed (storedRecord_cycleCount s c k body)))))]
  simp only [clampWarnings, sentRecord, Bool.or_eq_true, decide_eq_true_eq, ne_comm, or_assoc]

end

/-! ## The ranges of a stored record (R31 to R33) -/

/-- What a clamp leaves of a field, where the range is ordered. -/
theorem clamped_field {x lo hi n : Nat} (h : lo ≤ hi) (e : x = clampTo lo hi n) : lo ≤ x ∧ x ≤ hi ∧ x = clip lo hi n := by
  subst e
  exact ⟨(clampTo_mem h n).1, (clampTo_mem h n).2, clampTo_eq_clip h n⟩

/-- What a limit leaves of a bias power (R32). -/
theorem limited_bias {s : State} {c : Chamber} {x n : Nat} (e : x = limitBias s c n) :
    x ≤ (s.cfg.chambers.look c).biasMax ∧ (findEntry s (.chamber c) .bias = none → x = 0) ∧
    (¬findEntry s (.chamber c) .bias = none → x = min n (s.cfg.chambers.look c).biasMax) := by
  subst e
  exact ⟨limitBias_le s c n, (limitBias_none · n), (limitBias_some · n)⟩

/-- What a limit leaves of a source power (R32). -/
theorem limited_source {x n m : Nat} (e : x = min n m) : x ≤ m ∧ x = min n m :=
  ⟨e.trans_le (Nat.min_le_right n m), e⟩

section
variable (s : State) (c : Chamber) (k : Kind) (body : List Byte)

theorem storedRecord_targetA_of_process (h : k.isProcess = true) : (storedRecord s c k body).targetA =
    clampTo (s.cfg.chambers.look c).minControl (s.cfg.chambers.look c).maxControl (field body 7 4) := by
  cases k with
  | pumpdown | vent => cases h
  | _ => exact storedRecord_targetA s c _ body

theorem storedRecord_settling (h : k.settles) :
    1 ≤ (storedRecord s c k body).tolerance ∧ (storedRecord s c k body).tolerance ≤ 50 ∧
    (storedRecord s c k body).settleMs ≤ 60000 ∧ (storedRecord s c k body).tolerance = clip 1 50 (field body 15 1) ∧
    (storedRecord s c k body).settleMs = clip 0 60000 (field body 16 4) := by
  obtain ⟨one, fifty, tolerance⟩ := clamped_field (by decide) ((storedRecord_tolerance s c k body).trans (if_pos h))
  obtain ⟨_, minute, settle⟩ := clamped_field (by decide) ((storedRecord_settleMs s c k body).trans (if_pos h))
  exact ⟨one, fifty, minute, tolerance, settle⟩

theorem storedRecord_power (h : k.powered) :
    (storedRecord s c k body).sourceA ≤ (s.cfg.chambers.look c).sourceMax ∧
    (storedRecord s c k body).biasA ≤ (s.cfg.chambers.look c).biasMax ∧
    (storedRecord s c k body).arcLimit = field body 52 1 ∧
    (storedRecord s c k body).sourceA = min (field body 20 2) (s.cfg.chambers.look c).sourceMax ∧
    (findEntry s (.chamber c) .bias = none → (storedRecord s c k body).biasA = 0) ∧
    (¬findEntry s (.chamber c) .bias = none →
      (storedRecord s c k body).biasA = min (field body 24 2) (s.cfg.chambers.look c).biasMax) := by
  obtain ⟨sourceMax, source⟩ := limited_source ((storedRecord_sourceA s c k body).trans (if_pos h))
  obtain ⟨biasMax, bias⟩ := limited_bias ((storedRecord_biasA s c k body).trans (if_pos h))
  obtain ⟨_, _, arcLimit, _⟩ := storedRecord_unclamped s c k body
  exact ⟨sourceMax, biasMax, arcLimit, source, bias⟩

theorem storedRecord_cycle :
    let r := storedRecord s c .cycle body
    let p := s.cfg.chambers.look c
    r.sourceB ≤ p.sourceMax ∧ r.biasB ≤ p.biasMax ∧ r.sourceB = min (field body 22 2) p.sourceMax ∧
      (findEntry s (.chamber c) .bias = none → r.biasB = 0) ∧
      (¬findEntry s (.chamber c) .bias = none → r.biasB = min (field body 26 2) p.biasMax) ∧
      20 ≤ r.phaseAMs ∧ r.phaseAMs ≤ 60000 ∧ r.phaseAMs = clip 20 60000 (field body 38 4) ∧
      20 ≤ r.phaseBMs ∧ r.phaseBMs ≤ 60000 ∧ r.phaseBMs = clip 20 60000 (field body 42 4) ∧
      r.firstExtMs ≤ 10000 ∧ r.firstExtMs = clip 0 10000 (field body 46 4) ∧
      1 ≤ r.cycleCount ∧ r.cycleCount ≤ 65535 ∧ r.cycleCount = clip 1 65535 (field body 50 2) := by
  obtain ⟨sourceMax, source⟩ := limited_source (storedRecord_sourceB s c .cycle body)
  obtain ⟨biasMax, noBias, bias⟩ := limited_bias (storedRecord_biasB s c .cycle body)
  obtain ⟨aMin, aMax, a⟩ := clamped_field (by decide) (storedRecord_phaseAMs s c .cycle body)
  obtain ⟨bMin, bMax, b⟩ := clamped_field (by decide) (storedRecord_phaseBMs s c .cycle body)
  obtain ⟨_, extMax, ext⟩ := clamped_field (by decide) (storedRecord_firstExtMs s c .cycle body)
  exact ⟨sourceMax, biasMax, source, noBias, bias, aMin, aMax, a, bMin, bMax, b, extMax, ext,
    clamped_field (by decide) (storedRecord_cycleCount s c .cycle body)⟩

theorem storedRecord_plasma :
    let r := storedRecord s c .plasma body
    (r.endMode = .endpoint ↔ field body 4 1 = 1) ∧
      (r.endMode = .endpoint → r.maskMs ≤ 600000 ∧ r.maskMs = clip 0 600000 (field body 32 4) ∧
        r.overetchPct ≤ 200 ∧ r.overetchPct = clip 0 200 (field body 36 2)) := by
  refine ⟨?_, fun endpoint => ?_⟩
  · rw [storedRecord_endMode]
    split <;> simp [*]
  · obtain ⟨_, maskMax, mask⟩ :=
      clamped_field (by decide) ((storedRecord_maskMs s c .plasma body).trans (if_pos ⟨rfl, endpoint⟩))
    obtain ⟨_, overMax, overetch⟩ :=
      clamped_field (by decide) ((storedRecord_overetchPct s c .plasma body).trans (if_pos ⟨rfl, endpoint⟩))
    exact ⟨maskMax, mask, overMax, overetch⟩

/-! ## The gas entries of a stored record (R25, R29, R30, R34) -/

theorem storedRecord_entries : (storedRecord s c k body).entries =
    (loadSet s c (usedA k body) ++ loadSet s c (usedB k body)).map (·.1) := by
  obtain ⟨_, _, _, setA, setB, _⟩ := storedRecord_unclamped s c k body
  rw [StepRec.entries, setA, setB, List.map_append]

theorem storedRecord_flow_le : ∀ g ∈ (storedRecord s c k body).entries, g.flow ≤ Config.flowMax := by
  rw [storedRecord_entries, List.forall_mem_map]
  intro x hx
  obtain ⟨l, n, hl⟩ := mem_loadedGas (k := k) (body := body) (List.mem_append_left _ hx)
  rw [(loadEntry_flow hl).1]
  exact Nat.min_le_right _ _

/-- An entry's warning stands in a record that passed R28's tests where the load of one of its entries raises it. -/
theorem storedRecord_loadWarning {s : State} {c : Chamber} {k : Kind} {body : List Byte} {g : Warnings → Bool}
    {p : Nat × Nat → Prop} (hg : ∀ a b, g (a.or b) = (g a || g b)) (h0 : g Warnings.none = false)
    (clamp : ∀ a b, g (clampWarnings a b) = false) (hp : ∀ e x, Loads s c e x → (g x.2 = true ↔ p e))
    (pass : stepRefusal s c k body = none) : g (storedRecord s c k body).warnings = true ↔
      ∃ e ∈ sentA k body ++ sentB k body ++ sentPurge s c k body, p e := by
  obtain ⟨a, b, purge⟩ := loads_of_passed pass
  rw [storedRecord_warning hg h0, clamp, Bool.or_false, List.any_eq_true]
  exact exists_mem_iff_of_forall₂ (List.rel_append (List.rel_append a b) purge) hp

/-- The entries of sets that were loaded. -/
theorem loadedAs_of_loads {s : State} {c : Chamber} {sent : List (Nat × Nat)} {xs : List (GasEntry × Warnings)}
    (h : List.Forall₂ (Loads s c) sent xs) : List.Forall₂ (LoadedAs s c) sent (xs.map (·.1)) :=
  List.forall₂_map_right_iff.2 (h.imp fun _ _ loads => loads.entry)

end

theorem storedRecord_of_passed {s : State} {c : Chamber} {k : Kind} {body : List Byte} (pass : stepRefusal s c k body = none) :
    let r := storedRecord s c k body
    let sent := sentA k body ++ sentB k body ++ sentPurge s c k body
    List.Forall₂ (LoadedAs s c) (sentA k body) r.setA ∧ List.Forall₂ (LoadedAs s c) (sentB k body) r.setB ∧
    List.Forall₂ (LoadedAs s c) (sentPurge s c k body) r.purge.toList ∧
    (r.warnings.flowClamped = true ↔ ∃ x ∈ sent, EntryClamped s c x) ∧
    (r.warnings.flowRaised = true ↔ ∃ x ∈ sent, EntryRaised s c x) := by
  obtain ⟨_, _, _, setA, setB, purge⟩ := storedRecord_unclamped s c k body
  obtain ⟨a, b, p⟩ := loads_of_passed pass
  refine ⟨?_, ?_, ?_, ?_, ?_⟩
  · rw [setA]
    exact loadedAs_of_loads a
  · rw [setB]
    exact loadedAs_of_loads b
  · rw [purge, Option.toList_map]
    exact loadedAs_of_loads p
  · exact storedRecord_loadWarning (g := (·.flowClamped)) (fun _ _ => rfl) rfl (fun _ _ => rfl) (fun _ _ h => h.clamped) pass
  · exact storedRecord_loadWarning (g := (·.flowRaised)) (fun _ _ => rfl) rfl (fun _ _ => rfl) (fun _ _ h => h.raised) pass

/-- Settles O27: the clamps are one function field by field (`clampRecord_eq`), so each field's range and each warning of a clamp
follow from that field's equation; the warnings of flows follow from the loads of the entries sent (`loads_of_passed`). -/
theorem storedFieldsInRange : Obligations.StoredFieldsInRange := by
  intro s c k body
  obtain ⟨kind, id, _⟩ := storedRecord_unclamped s c k body
  refine ⟨kind, id, ?_, ?_, ?_, storedRecord_settling s c k body, ?_, storedRecord_power s c k body, ?_, ?_,
    storedRecord_flow_le s c k body, storedRecord_pressureClamped s c k body, storedRecord_powerClamped s c k body,
    storedRecord_timeClamped s c k body, storedRecord_toleranceClamped s c k body, fun _ => storedRecord_of_passed⟩
  · intro pumpdown ordered
    exact clamped_field ordered ((storedRecord_targetA s c k body).trans (if_pos pumpdown))
  · intro process ordered
    exact clamped_field ordered (storedRecord_targetA_of_process s c k body process)
  · intro cycle ordered
    exact clamped_field ordered ((storedRecord_targetB s c k body).trans (if_pos cycle))
  · intro lasts
    exact clamped_field (by decide) ((storedRecord_durationMs s c k body).trans (if_pos lasts))
  · rintro rfl
    exact storedRecord_cycle s c body
  · rintro rfl
    exact storedRecord_plasma s c body

end Sys2Proof.Machine
end

section
namespace Sys2Proof.Machine

/-! # Timers that have not run out (R47, R53, R57, R91, R108, R114, R117 to R120, R123, R125, R127, R134) -/

/-- A command whose guard fails changes nothing (notes/assumptions/2.md). -/
theorem idles_of_guard {i : Instr} {s act : State} {guard : Bool} (served : Served s)
    (he : exec i s = .next (finish (if guard then act else s))) (hg : guard = false) : Idles i s := by
  rw [Idles, he, hg, if_neg Bool.false_ne_true, finish_of_served served]

/-- The expiry of a step's timer that is not due; an expiry that asks for no phase has the guard true. -/
theorem idles_of_stepTimer {i : Instr} {s act : State} {c : Chamber} {t : StepCtx → Timer} {guard : Bool} (served : Served s)
    (he : exec i s = .next (finish (if guard && stepTimerDue s c t then act else s)))
    (due : timerDue s ((s.ch c).exec.bind t) = false) : Idles i s :=
  idles_of_guard served he (by rw [stepTimerDue, due, Bool.and_false, Bool.and_false])

/-- Settles O50: the guard of each expiry has the timer among its conditions (idles_of_guard, idles_of_stepTimer). -/
theorem runningTimersDoNothing : Obligations.RunningTimersDoNothing := by
  intro s c served
  refine ⟨fun hold => ?_, fun rough => ?_, fun admission => ?_, ?_, fun k deviation => idles_of_guard served rfl deviation⟩
  · exact idles_of_guard served rfl (by rw [hold, Bool.and_false])
  · exact idles_of_guard served rfl (by rw [rough, Bool.and_false])
  · exact idles_of_guard served rfl (by rw [admission, Bool.and_false])
  · simp only [List.forall_mem_cons]
    exact ⟨idles_of_stepTimer served rfl, idles_of_stepTimer served rfl, idles_of_stepTimer served rfl,
      idles_of_stepTimer served rfl, idles_of_stepTimer served rfl, idles_of_stepTimer (guard := true) served rfl,
      idles_of_stepTimer (guard := true) served rfl, idles_of_stepTimer served rfl, idles_of_stepTimer served rfl,
      idles_of_stepTimer served rfl, idles_of_stepTimer served rfl, List.forall_mem_nil _⟩

end Sys2Proof.Machine
end

section
namespace Sys2Proof.Machine

/-! # The frame of a request about one chamber -/

/-- The transmitter's choice moves nothing but the reply, the event queue and the transmission (R176). -/
theorem Svl.transmit_same (v : Svl) :
    v.transmit = { v with reply := v.transmit.reply, events := v.transmit.events, tx := v.transmit.tx } := by
  unfold Svl.transmit
  split
  · rfl
  · split
    · rfl
    · split <;> rfl

/-- An accepted request about one chamber has the frame of its owner's act: the service run and the transmitter add nothing to it. -/
theorem frameOf_answered {s u : State} {c : Chamber} {f : Frame} {r : ReplyBody} (keep : Keeps (popFrame s) u)
    (quiet : Quiet (popFrame s) u) (apart : ∀ d : Chamber, c ≠ d → Apart d (popFrame s) u) :
    FrameOf c s (finish (putReply f r u)) := by
  have ended := keeps_runService (Keeps.refl (putReply f r u))
  obtain ⟨lines, poll, _, _⟩ := quiet_runService (quiet_modSvl (f := fun v => { v with reply := some ⟨f.tag, r⟩ }) quiet)
  refine ⟨ended.cfg.trans keep.cfg, ended.iiu.trans keep.iiu, ended.now.trans keep.now, ended.pending.trans keep.pending,
    ?_, lines, poll, fun d ne out => ?_⟩
  · have link : (runService (putReply f r u)).svl = { s.svl with
        buffer := s.svl.buffer.tail, reply := some ⟨f.tag, r⟩, events := (runService (putReply f r u)).svl.events,
        eventsLost := (runService (putReply f r u)).svl.eventsLost } := by
      rw [ended.svl, show (putReply f r u).svl = { u.svl with reply := some ⟨f.tag, r⟩ } from rfl, keep.svl]
      rfl
    unfold finish
    rw [State.modSvl_svl, Svl.transmit_same, link]
    exact ⟨rfl, rfl, rfl, rfl⟩
  · exact (apart_modSvl (apart_runService (apart_modSvl (apart d ne.symm))) ⟨out.queue, out.waiting, out.holder⟩).1

/-- A chamber that waits for nothing once the owner has acted stays as the act left it. -/
theorem finish_out {u : State} {c : Chamber} {f : Frame} {r : ReplyBody} (out : Out u c) :
    (finish (putReply f r u)).ch c = u.ch c ∧ (∀ k, (finish (putReply f r u)).chan c k = u.chan c k) ∧
      Out (finish (putReply f r u)) c := by
  obtain ⟨⟨same, chans⟩, still⟩ :=
    apart_modSvl (f := Svl.transmit) (apart_runService (apart_modSvl (f := fun v => { v with reply := some ⟨f.tag, r⟩ })
      (Apart.refl c u))) out
  exact ⟨same, chans, still⟩

/-! # The chamber under its own operations (R2, R20, R47) -/

section
variable (c : Chamber) (s : State)

/-- A close command does not move a valve out of counting open: that ends with its travel (R20). -/
@[simp] theorem Valve.commandClose_countsOpen (now travel : Nat) (v : Valve) :
    (v.commandClose now travel).countsOpen = v.countsOpen := by
  rcases v with ⟨_, _ | _ | _ | _⟩ <;> rfl

theorem closeRough_ch : (closeRough c s).ch c = { s.ch c with
    roughSoft := (s.ch c).roughSoft.commandClose s.now (s.cfg.chambers.look c).roughTravel
    roughFast := (s.ch c).roughFast.commandClose s.now (s.cfg.chambers.look c).roughTravel } := by
  unfold closeRough
  simp only [closeValve_ch, if_true]
  rfl

@[simp] theorem closeRough_now : (closeRough c s).now = s.now := rfl

theorem closeRough_roughOpen : ((closeRough c s).ch c).roughOpen = (s.ch c).roughOpen := by
  simp [closeRough_ch, Csq.roughOpen]

theorem enterPhase_ch (p : Phase) (d : Chamber) : (enterPhase c p s).ch d =
    if c = d then { s.ch c with phase := p, exec := (s.ch c).exec.map (fun e => { e with excursion := none }) } else s.ch d := by
  simp [enterPhase, postChstate]

theorem startRoughTimer_ch : (startRoughTimer c s).ch c = { s.ch c with
    exec := (s.ch c).exec.map (fun e => { e with roughSince := some (e.roughSince.getD s.now) }) } := by
  simp [startRoughTimer]

theorem ch_of_csq {t : State} (h : t.csq = s.csq) : t.ch c = s.ch c := congrArg (fun q => Table.look q c) h

end

end Sys2Proof.Machine
end

section
namespace Sys2Proof.Machine

/-! # The open commands of a roughing phase (R45, R46) -/

section
variable (c : Chamber) (s : State)

/-- The rough valves driven open in a roughing phase: both in ROUGH_FAST (R45, R46). -/
def driveRough : State :=
  if ((driveOpen c .roughSoft s).ch c).phase = .roughFast then driveOpen c .roughFast (driveOpen c .roughSoft s)
  else driveOpen c .roughSoft s

theorem openRough_eq : openRough c s = if mayOpenRough c s then
    if ((driveRough c s).ch c).roughOpen then startRoughTimer c (driveRough c s) else driveRough c s else s := rfl

theorem driveOpen_ch (v : ChamberValve) : (driveOpen c v s).ch c =
    (s.ch c).setValve v (((s.ch c).valve v).commandOpen s.now (travelOf s c v) s.iiu.forcing) := by
  simp [driveOpen]

theorem driveRough_ch : ∃ soft fast : Valve, (driveRough c s).ch c = { s.ch c with roughSoft := soft, roughFast := fast } ∧
    soft.cmd = true ∧ ((s.ch c).phase = .roughFast → fast.cmd = true) := by
  unfold driveRough
  split
  · simp only [driveOpen_ch]
    exact ⟨_, _, rfl, rfl, fun _ => rfl⟩
  · rename_i slow
    rw [driveOpen_ch] at slow ⊢
    exact ⟨_, _, rfl, rfl, fun quick => absurd quick slow⟩

/-- The open commands move the rough valves and the rough timer alone; where R20's conditions hold they are given. -/
theorem openRough_ch : ∃ (soft fast : Valve) (x : Option StepCtx),
    (openRough c s).ch c = { s.ch c with roughSoft := soft, roughFast := fast, exec := x } ∧
    (mayOpenRough c s = true → soft.cmd = true ∧ ((s.ch c).phase = .roughFast → fast.cmd = true)) := by
  obtain ⟨soft, fast, driven, opens⟩ := driveRough_ch c s
  rw [openRough_eq]
  split
  · refine ⟨soft, fast, ?_⟩
    split
    · exact ⟨_, by rw [startRoughTimer_ch, driven], fun _ => opens⟩
    · exact ⟨_, driven, fun _ => opens⟩
  · rename_i shut
    exact ⟨_, _, _, rfl, fun may => absurd may shut⟩

end

/-! # The chamber's side of the backing pause (R48) -/

/-- The other chambers, the channels, the foreline and the gas table are as they were. -/
structure ChamberOnly (c : Chamber) (s t : State) : Prop where
  others : ∀ d : Chamber, d ≠ c → t.ch d = s.ch d
  fcu : t.fcu = s.fcu
  fla : t.fla = s.fla
  gat : t.gat = s.gat

theorem ChamberOnly.refl (c : Chamber) (s : State) : ChamberOnly c s s := ⟨fun _ _ => rfl, rfl, rfl, rfl⟩

theorem ChamberOnly.trans {c : Chamber} {s t u : State} (h : ChamberOnly c s t) (g : ChamberOnly c t u) : ChamberOnly c s u :=
  ⟨fun d ne => (g.others d ne).trans (h.others d ne), g.fcu.trans h.fcu, g.fla.trans h.fla, g.gat.trans h.gat⟩

theorem ChamberOnly.chan {c : Chamber} {s t : State} (h : ChamberOnly c s t) (d : Chamber) (k : Channel) :
    t.chan d k = s.chan d k := congrArg (fun x => (Table.look x d).look k) h.fcu

section
variable {c : Chamber} {σ τ : State} (only : ChamberOnly c σ τ)
include only

theorem chamberOnly_modCh {f : Csq → Csq} : ChamberOnly c σ (τ.modCh c f) :=
  only.trans ⟨fun _ ne => State.modCh_ch_ne τ f ne.symm, rfl, rfl, rfl⟩

theorem chamberOnly_modExec {f : StepCtx → StepCtx} : ChamberOnly c σ (τ.modExec c f) := chamberOnly_modCh only

theorem chamberOnly_closeRough : ChamberOnly c σ (closeRough c τ) := by
  unfold closeRough closeValve
  exact chamberOnly_modCh (chamberOnly_modCh only)

theorem chamberOnly_enterPhase (p : Phase) : ChamberOnly c σ (enterPhase c p τ) :=
  (chamberOnly_modCh only).trans ⟨fun d _ => post_ch _ _ d, post_fcu _ _, post_fla _ _, post_gat _ _⟩

theorem chamberOnly_driveOpen (v : ChamberValve) : ChamberOnly c σ (driveOpen c v τ) := chamberOnly_modCh only

theorem chamberOnly_driveRough : ChamberOnly c σ (driveRough c τ) := by
  unfold driveRough
  split
  · exact chamberOnly_driveOpen (chamberOnly_driveOpen only _) _
  · exact chamberOnly_driveOpen only _

theorem chamberOnly_openRough : ChamberOnly c σ (openRough c τ) := by
  rw [openRough_eq]
  split
  · split
    · exact chamberOnly_modExec (chamberOnly_driveRough only)
    · exact chamberOnly_driveRough only
  · exact only

theorem chamberOnly_enterSub (p : SubPhase) : ChamberOnly c σ (enterSub c p τ) :=
  chamberOnly_openRough (chamberOnly_enterPhase only _)

theorem chamberOnly_takePause : ChamberOnly c σ (takePause c τ) := by
  unfold takePause
  split
  · exact chamberOnly_enterPhase (chamberOnly_closeRough (chamberOnly_modExec only)) _
  · split
    · exact chamberOnly_enterPhase (chamberOnly_closeRough (chamberOnly_modExec only)) _
    · exact only

theorem chamberOnly_takeResume : ChamberOnly c σ (takeResume c τ) := by
  unfold takeResume
  split
  · exact chamberOnly_enterSub only _
  · exact only

end

section
variable {c : Chamber} {s : State}

/-- The chamber whose roughing the backing pause has stopped (R48). -/
def Csq.pausedIn (q : Csq) (s : State) (c : Chamber) (e : StepCtx) (sub : SubPhase) : Csq :=
  { q with
    phase := .roughPaused
    exec := some { e with paused := some sub, excursion := none }
    roughSoft := q.roughSoft.commandClose s.now (s.cfg.chambers.look c).roughTravel
    roughFast := q.roughFast.commandClose s.now (s.cfg.chambers.look c).roughTravel }

theorem takePause_eq {sub : SubPhase} (hp : (s.ch c).inPhase sub.phase = true) :
    takePause c s = enterPhase c .roughPaused (closeRough c (s.modExec c (fun e => { e with paused := some sub }))) := by
  unfold takePause
  cases sub with
  | soft => exact if_pos hp
  | fast =>
    have phase : (s.ch c).phase = .roughFast := of_decide_eq_true (Bool.and_eq_true_iff.1 hp).2
    rw [if_neg (by simp [Csq.inPhase, phase])]
    exact if_pos hp

theorem takePause_ch {sub : SubPhase} {e : StepCtx} (hx : (s.ch c).exec = some e) (hp : (s.ch c).inPhase sub.phase = true) :
    (takePause c s).ch c = (s.ch c).pausedIn s c e sub := by
  rw [takePause_eq hp]
  simp [enterPhase_ch, closeRough_ch, hx, Csq.pausedIn]

theorem takeResume_eq {sub : SubPhase} {e : StepCtx} (hx : (s.ch c).exec = some e) (hp : (s.ch c).inPhase .roughPaused = true)
    (rec : e.paused = some sub) : takeResume c s = enterSub c sub s := by
  unfold takeResume
  simp [hp, hx, rec]

/-- A rough sub-phase entered: its open commands are given where GATE and VENT are closed and the chamber holds the foreline. -/
theorem enterSub_ch (c : Chamber) (sub : SubPhase) (s : State) :
    ((enterSub c sub s).ch c).state = (s.ch c).state ∧ ((enterSub c sub s).ch c).phase = sub.phase ∧
    ((s.ch c).gate.isClosed = true → (s.ch c).vent.isClosed = true → s.fla.holder = some (.chamber c) →
      ((enterSub c sub s).ch c).roughSoft.cmd = true ∧ (sub = .fast → ((enterSub c sub s).ch c).roughFast.cmd = true)) := by
  have entered := enterPhase_ch c s sub.phase c
  rw [if_pos rfl] at entered
  obtain ⟨soft, fast, x, opened, given⟩ := openRough_ch c (enterPhase c sub.phase s)
  unfold enterSub
  rw [opened, entered]
  refine ⟨rfl, rfl, fun gate vent holds => ?_⟩
  have holder : (enterPhase c sub.phase s).fla.holder = some (.chamber c) :=
    (congrArg Fla.holder (chamberOnly_enterPhase (ChamberOnly.refl c s) sub.phase).fla).trans holds
  obtain ⟨softOpen, fastOpen⟩ := given (by simp [mayOpenRough, holdsForeline, holder, entered, gate, vent])
  refine ⟨softOpen, fun quick => fastOpen ?_⟩
  rw [entered, quick]
  rfl

end

end Sys2Proof.Machine
end

section
namespace Sys2Proof.Machine

open Host (Outcome)

/-! # RSUS (R49) -/

section
variable {s σ : State} {c : Chamber}

theorem keeps_suspendRoughing (keep : Keeps σ s) (c : Chamber) : Keeps σ (suspendRoughing c s) := by
  unfold suspendRoughing
  have closed := keeps_closeRough (keeps_modExec (c := c) (f := fun e => { e with paused := none }) keep) c
  refine keeps_leaveForeline (keeps_enterPhase ?_ c _) c
  split
  · exact keeps_startRoughTimer closed c
  · exact closed

theorem quiet_suspendRoughing (quiet : Quiet σ s) (c : Chamber) : Quiet σ (suspendRoughing c s) := by
  unfold suspendRoughing
  have closed := quiet_closeRough (quiet_modExec (c := c) (f := fun e => { e with paused := none }) quiet) c
  refine quiet_leaveForeline (quiet_enterPhase ?_ c _) c
  split
  · exact quiet_startRoughTimer closed c
  · exact closed

theorem apart_suspendRoughing {κ : Chamber} (apart : Apart κ σ s) (c : Chamber) (ne : c ≠ κ) :
    Apart κ σ (suspendRoughing c s) := by
  unfold suspendRoughing
  have closed := apart_closeRough (apart_modExec (f := fun e => { e with paused := none }) apart ne) c ne
  refine apart_leaveForeline (apart_enterPhase ?_ c ne _) c ne
  split
  · exact apart_startRoughTimer closed c ne
  · exact closed

/-- The chamber whose roughing is suspended (R47, R49). -/
def Csq.suspended (q : Csq) (s : State) (c : Chamber) (e : StepCtx) : Csq :=
  { q with
    phase := .roughSuspended
    exec := some { e with
      paused := none, excursion := none,
      roughSince := if q.roughOpen then some (e.roughSince.getD s.now) else e.roughSince }
    roughSoft := q.roughSoft.commandClose s.now (s.cfg.chambers.look c).roughTravel
    roughFast := q.roughFast.commandClose s.now (s.cfg.chambers.look c).roughTravel }

/-- Before the foreline is left: the valves commanded closed, the rough timer running while one counts open, the phase entered. -/
def stopRoughing (c : Chamber) (s : State) : State :=
  let u := closeRough c (s.modExec c (fun e => { e with paused := none }))
  enterPhase c .roughSuspended (if (u.ch c).roughOpen then startRoughTimer c u else u)

theorem suspendRoughing_eq (c : Chamber) (s : State) : suspendRoughing c s = leaveForeline c (stopRoughing c s) := rfl

theorem stopRoughing_ch {e : StepCtx} (hx : (s.ch c).exec = some e) : (stopRoughing c s).ch c = (s.ch c).suspended s c e := by
  unfold stopRoughing
  simp only [closeRough_roughOpen, enterPhase_ch, if_true]
  have same : ((s.modExec c (fun e => { e with paused := none })).ch c).roughOpen = (s.ch c).roughOpen := by simp [Csq.roughOpen]
  rw [same]
  cases counts : (s.ch c).roughOpen
  · simp [closeRough_ch, hx, Csq.suspended, counts]
  · simp [startRoughTimer_ch, closeRough_ch, hx, Csq.suspended, counts]

theorem chamberOnly_stopRoughing (c : Chamber) (s : State) : ChamberOnly c s (stopRoughing c s) := by
  have closed := chamberOnly_closeRough (chamberOnly_modExec (f := fun e => { e with paused := none }) (ChamberOnly.refl c s))
  unfold stopRoughing
  refine chamberOnly_enterPhase ?_ _
  split
  · exact chamberOnly_modExec closed
  · exact closed

/-- The chamber is out once it has left the foreline, and what it is then the release no longer moves. -/
theorem suspendRoughing_out {e : StepCtx} (hx : (s.ch c).exec = some e) (hq : c ∉ s.gat.queue) :
    (suspendRoughing c s).ch c = (s.ch c).suspended s c e ∧ (∀ k, (suspendRoughing c s).chan c k = s.chan c k) ∧
      Out (suspendRoughing c s) c := by
  have only := chamberOnly_stopRoughing c s
  obtain ⟨same, chans, out⟩ := leaveForeline_out c (stopRoughing c s) (by rwa [only.gat])
  rw [suspendRoughing_eq]
  exact ⟨same.trans (stopRoughing_ch hx), fun k => (chans k).trans (only.chan c k), out⟩

/-! ## The request -/

theorem actRsus_idle {body : List Byte} (hc : bodyChamber body = some c) (hx : (s.ch c).exec = none) :
    actRsus body (popFrame s) = refuse .state (popFrame s) := by
  simp [actRsus, onChamber, hc, hx]

theorem actRsus_step {body : List Byte} {e : StepCtx} (hc : bodyChamber body = some c) (hx : (s.ch c).exec = some e) :
    actRsus body (popFrame s) = if (s.ch c).running && (s.ch c).phase.suspendable
      then accept (u16 e.record.id) (suspendRoughing c (popFrame s)) else refuse .state (popFrame s) := by
  simp [actRsus, onChamber, hc, hx]

/-- An accepted RSUS: the owner's act, the reply, and what ends every command. -/
theorem rsus_accepted {f : Frame} {e : StepCtx} (asks : Asks s .rsus f) (hc : bodyChamber f.body = some c)
    (hx : (s.ch c).exec = some e) (run : (s.ch c).state = .running) (susp : (s.ch c).phase.suspendable = true)
    (hq : c ∉ s.gat.queue) :
    ∃ t, exec .rsus s = .next t ∧ Answered s t f (.ack (u16 e.record.id)) ∧ FrameOf c s t ∧ Out t c ∧
      (∀ k : Channel, t.chan c k = s.chan c k) ∧ t.ch c = (s.ch c).suspended s c e := by
  have act : actRsus f.body (popFrame s) = accept (u16 e.record.id) (suspendRoughing c (popFrame s)) :=
    (actRsus_step hc hx).trans (if_pos (by simp [Csq.running, run, susp]))
  obtain ⟨same, chans, out⟩ := suspendRoughing_out (s := popFrame s) hx hq
  obtain ⟨same', chans', out'⟩ := finish_out (f := f) (r := .ack (u16 e.record.id)) out
  have keep := keeps_suspendRoughing (Keeps.refl (popFrame s)) c
  refine ⟨_, congrArg (fun u => Outcome.next (finish u)) ((request_of_asks asks actRsus).trans (by rw [act]; rfl)),
    answered_finish keep.svl, ?_, out', fun k => (chans' k).trans (chans k), same'.trans same⟩
  exact frameOf_answered keep (quiet_suspendRoughing (Quiet.refl _) c) (fun d ne => apart_suspendRoughing (Apart.refl d _) c ne)

/-- RSUS outside the phases it is accepted in is refused (R49). -/
theorem rsus_refused {f : Frame} {e : StepCtx} (served : Served s) (asks : Asks s .rsus f) (hc : bodyChamber f.body = some c)
    (hx : (s.ch c).exec = some e) (out : (s.ch c).state ≠ .running ∨ (s.ch c).phase.suspendable = false) :
    Refuses .rsus s f .state := by
  refine refuses_of_refuse rfl asks served ((actRsus_step hc hx).trans (if_neg ?_))
  rcases out with still | phase
  · simp [Csq.running, still]
  · simp [phase]

end

end Sys2Proof.Machine
end

section
namespace Sys2Proof.Machine

/-! # What the Instrument Link's own work leaves (R144, R146) -/

/-- The chambers, the foreline and the gas table, the inputs, the configuration and the clock are as they were. -/
structure LinkOnly (s t : State) : Prop where
  csq : t.csq = s.csq
  fla : t.fla = s.fla
  gat : t.gat = s.gat
  iiu : t.iiu = s.iiu
  cfg : t.cfg = s.cfg
  now : t.now = s.now

theorem LinkOnly.refl (s : State) : LinkOnly s s := ⟨rfl, rfl, rfl, rfl, rfl, rfl⟩

theorem LinkOnly.trans {s t u : State} (h : LinkOnly s t) (g : LinkOnly t u) : LinkOnly s u :=
  ⟨g.csq.trans h.csq, g.fla.trans h.fla, g.gat.trans h.gat, g.iiu.trans h.iiu, g.cfg.trans h.cfg, g.now.trans h.now⟩

section
variable {σ τ : State} (link : LinkOnly σ τ)
include link

theorem linkOnly_modIlc {f : Ilc → Ilc} : LinkOnly σ (τ.modIlc f) := link.trans ⟨rfl, rfl, rfl, rfl, rfl, rfl⟩
theorem linkOnly_modPoll {e : EntryIx} {f : PollDyn → PollDyn} : LinkOnly σ (τ.modPoll e f) := linkOnly_modIlc link
theorem linkOnly_modSvl {f : Svl → Svl} : LinkOnly σ (τ.modSvl f) := link.trans ⟨rfl, rfl, rfl, rfl, rfl, rfl⟩
theorem linkOnly_modChan {c : Chamber} {k : Channel} {f : ChanCtx → ChanCtx} : LinkOnly σ (τ.modChan c k f) :=
  link.trans ⟨rfl, rfl, rfl, rfl, rfl, rfl⟩

theorem linkOnly_post (e : Event) : LinkOnly σ (post e τ) :=
  link.trans ⟨post_csq e τ, post_fla e τ, post_gat e τ, post_iiu e τ, post_cfg e τ, post_now e τ⟩

omit link in
theorem linkOnly_foldl {α : Type} {f : State → α → State} (xs : List α) (hf : ∀ u a, LinkOnly σ u → LinkOnly σ (f u a))
    (link : LinkOnly σ τ) : LinkOnly σ (xs.foldl f τ) := by
  induction xs generalizing τ with
  | nil => exact link
  | cons a rest ih => exact ih (hf τ a link)

theorem linkOnly_buildTxn (e : EntryIx) : LinkOnly σ (buildTxn e τ) := by
  unfold buildTxn buildRamp rampUpdate
  refine linkOnly_modIlc ?_
  split
  · exact linkOnly_modChan (linkOnly_modPoll link)
  · exact linkOnly_modPoll link

theorem linkOnly_buildNext : LinkOnly σ (buildNext τ) := by
  unfold buildNext
  split
  · exact link
  · exact linkOnly_buildTxn (linkOnly_modIlc link) _

theorem linkOnly_countLate (e : EntryIx) : LinkOnly σ (countLate e τ) := by
  unfold countLate
  dsimp only
  split
  · exact linkOnly_post (linkOnly_modPoll link) _
  · exact linkOnly_modPoll link

theorem linkOnly_tickCountdowns : LinkOnly σ (tickCountdowns τ) :=
  linkOnly_foldl _ (fun _ _ link => linkOnly_modPoll link) link

theorem linkOnly_beginFrame : LinkOnly σ (beginFrame τ) := by
  unfold beginFrame
  refine linkOnly_buildNext (linkOnly_foldl _ (fun u e link => ?_) (linkOnly_modIlc (linkOnly_tickCountdowns link)))
  split
  · exact linkOnly_countLate link e
  · exact link

theorem linkOnly_endTxn : LinkOnly σ (endTxn τ) := by
  have built := linkOnly_buildNext (linkOnly_modIlc (f := fun i => { i with inFlight := none }) link)
  unfold endTxn
  dsimp only
  split
  · exact linkOnly_beginFrame built
  · exact built

end

/-- With no service owed nothing is admitted. -/
theorem runService_of_served {s : State} (h : Served s) : runService s = s := by
  unfold runService
  exact if_neg (Bool.eq_false_iff.1 h)

/-- What a reply has made of the blocks is what stands after it, if it owes no service: the next transaction and the transmitter
touch none of them. -/
theorem linkOnly_reply_end {u : State} (served : Served u) : LinkOnly u (finish (endTxn (runService u))) := by
  have ended := linkOnly_endTxn (LinkOnly.refl u)
  have still : Served (endTxn u) := (congrArg Gat.serviceDue ended.gat).trans served
  rw [runService_of_served served, finish_of_served still]
  exact linkOnly_modSvl ended

/-- A valid reply of the FORELINE entry, not FAILED before, moves nothing but the entry and the event queue (R150, R151). -/
theorem linkOnly_validReply {s : State} {e : EntryIx} (owner : ownerOf (s.cfg.poll.look e).owner = some .tool)
    (role : roleOf (s.cfg.poll.look e).role = some .foreline) (state : (s.pollDyn e).state ≠ .failed) :
    LinkOnly s (validReply e s) := by
  have counted : LinkOnly s (s.modPoll e (fun x => { x with misses := 0 })) := linkOnly_modPoll (LinkOnly.refl s)
  unfold validReply
  dsimp only
  split
  · exact counted
  · have silent : ∀ old u, old ≠ InstState.failed → ownerReport (s.cfg.poll.look e) old .ok u = u := by
      intro old u ne
      simp [ownerReport, owner, role, ne]
    unfold changeInst
    rw [State.modPoll_cfg, silent _ _ (by simpa using state)]
    exact linkOnly_post (linkOnly_modPoll counted) _

/-- The reply of a reading is taken and routed (R145, R152). -/
theorem exec_reading {s : State} {bs : BusReply} {x : Txn} {o : PollOwner} {r : Role} {data : List Byte}
    (g : GivesReading s bs x o r data) : exec (.instrumentReply bs) s = .next (finish (endTxn (runService
      (routeReading (s.cfg.poll.look x.entry) x.beforeStrike data (validReply x.entry s))))) := by
  have flight : s.ilc.awaits bs.txn = some x := by simp [Ilc.awaits, g.flight, g.number]
  unfold exec execInstrumentReply
  simp only [flight, g.judged, Bool.false_eq_true, if_false, takeReply, g.role, g.valid]

theorem routeReading_foreline {p : PollCfg} (owner : ownerOf p.owner = some .tool) (role : roleOf p.role = some .foreline)
    (before : Bool) (data : List Byte) (s : State) :
    routeReading p before data s = takeForelineReading (bytesNat data) s := by
  unfold routeReading
  simp only [owner, role]

end Sys2Proof.Machine
end

section
namespace Sys2Proof.Machine

/-! # The backing pause at the arbiter (R64) -/

section
variable (s : State)

/-- The backing pause flag set or cleared, and told (R59). -/
def flagPause (b : Bool) : State := postForeline (s.modFla (fun a => { a with pause := b }))

@[simp] theorem flagPause_fla (b : Bool) : (flagPause s b).fla = { s.fla with pause := b } := post_fla _ _
@[simp] theorem flagPause_gat (b : Bool) : (flagPause s b).gat = s.gat := post_gat _ _
@[simp] theorem flagPause_csq (b : Bool) : (flagPause s b).csq = s.csq := post_csq _ _
@[simp] theorem flagPause_ch (b : Bool) (c : Chamber) : (flagPause s b).ch c = s.ch c := post_ch _ _ c
@[simp] theorem flagPause_now (b : Bool) : (flagPause s b).now = s.now := post_now _ _
@[simp] theorem flagPause_cfg (b : Bool) : (flagPause s b).cfg = s.cfg := post_cfg _ _
@[simp] theorem flagPause_iiu (b : Bool) : (flagPause s b).iiu = s.iiu := post_iiu _ _

/-- A line's progress stopped and its pump valve commanded closed (R66). -/
def pauseLine (l : Line) : State := closePump l (stopProgress s)

/-- A line's progress started and its pump valve commanded open (R66). -/
def resumeLine (l : Line) : State := openPump l (s.modFla (fun a => { a with progress := some s.now }))

variable {s}

theorem setPause_same {b : Bool} (h : s.fla.pause = b) : setPause b s = s := if_pos h

theorem setPause_chamber {b : Bool} {c : Chamber} (ne : s.fla.pause ≠ b) (h : s.fla.holder = some (.chamber c)) :
    setPause b s = if b then takePause c (flagPause s b) else takeResume c (flagPause s b) := by
  have holder : (flagPause s b).fla.holder = some (.chamber c) := by rw [flagPause_fla, h]
  unfold flagPause at holder ⊢
  cases b <;> simp [setPause, ne, holder]

theorem setPause_line {b : Bool} {l : Line} (ne : s.fla.pause ≠ b) (h : s.fla.holder = some (.line l)) :
    setPause b s = if b then pauseLine (flagPause s b) l else resumeLine (flagPause s b) l := by
  have holder : (flagPause s b).fla.holder = some (.line l) := by rw [flagPause_fla, h]
  unfold flagPause at holder ⊢
  cases b <;> simp [setPause, ne, holder, pauseLine, resumeLine]

theorem setPause_free {b : Bool} (ne : s.fla.pause ≠ b) (h : s.fla.holder = none) : setPause b s = flagPause s b := by
  have holder : (flagPause s b).fla.holder = none := by rw [flagPause_fla, h]
  unfold flagPause at holder ⊢
  simp [setPause, ne, holder]

theorem pauseLine_fla {l : Line} (h : s.fla.holder = some (.line l)) : (pauseLine s l).fla = { s.fla with
    list := s.fla.list.map (fun q => if q.line = l then { q with acc := q.progress s } else q)
    progress := none
    pumps := s.fla.pumps.put l ((s.fla.pumps.look l).commandClose s.now s.cfg.pumpTravel) } := by
  simp [pauseLine, closePump, modPump, stopProgress, h]

theorem resumeLine_fla {l : Line} (h : s.fla.holder = some (.line l)) : (resumeLine s l).fla = { s.fla with
    progress := some s.now
    pumps := s.fla.pumps.put l ((s.fla.pumps.look l).commandOpen s.now s.cfg.pumpTravel s.iiu.forcing) } := by
  simp [resumeLine, openPump, modPump, h]

theorem pauseLine_rest (s : State) (l : Line) : (pauseLine s l).csq = s.csq ∧ (pauseLine s l).gat = s.gat := by
  unfold pauseLine stopProgress
  split <;> exact ⟨rfl, rfl⟩

theorem resumeLine_rest (s : State) (l : Line) : (resumeLine s l).csq = s.csq ∧ (resumeLine s l).gat = s.gat := by
  unfold resumeLine openPump
  split <;> exact ⟨rfl, rfl⟩

end

/-! ## The flag's change, by the holder -/

/-- What a change of the flag leaves whoever holds the foreline: the grants and messages of the arbiter, the gas table, and every
chamber but a holder (R64). -/
structure PauseFrame (b : Bool) (s t : State) : Prop where
  fla : t.fla = { s.fla with pause := b, list := t.fla.list, progress := t.fla.progress, pumps := t.fla.pumps }
  gat : t.gat = s.gat
  others : ∀ k : Chamber, s.fla.holder ≠ some (.chamber k) → t.ch k = s.ch k

section
variable {s : State} {b : Bool}

theorem setPause_chamberOnly {c : Chamber} (ne : s.fla.pause ≠ b) (h : s.fla.holder = some (.chamber c)) :
    ChamberOnly c (flagPause s b) (setPause b s) := by
  rw [setPause_chamber ne h]
  split
  · exact chamberOnly_takePause (ChamberOnly.refl _ _)
  · exact chamberOnly_takeResume (ChamberOnly.refl _ _)

theorem setPause_line_rest {l : Line} (ne : s.fla.pause ≠ b) (h : s.fla.holder = some (.line l)) :
    (setPause b s).csq = s.csq ∧ (setPause b s).gat = s.gat := by
  rw [setPause_line ne h, ← flagPause_csq s b, ← flagPause_gat s b]
  split
  · exact pauseLine_rest _ l
  · exact resumeLine_rest _ l

theorem setPause_frame (b : Bool) (s : State) : PauseFrame b s (setPause b s) := by
  by_cases same : s.fla.pause = b
  · rw [setPause_same same]
    subst same
    exact ⟨rfl, rfl, fun _ _ => rfl⟩
  · match h : s.fla.holder with
    | none =>
      rw [setPause_free same h]
      exact ⟨by rw [flagPause_fla], flagPause_gat s b, fun k _ => flagPause_ch s b k⟩
    | some (.chamber c) =>
      obtain ⟨others, _, fla, gat⟩ := setPause_chamberOnly same h
      refine ⟨by rw [fla, flagPause_fla], gat.trans (flagPause_gat s b), fun k other => ?_⟩
      have ne : k ≠ c := fun e => other (by rw [h, e])
      exact (others k ne).trans (flagPause_ch s b k)
    | some (.line l) =>
      obtain ⟨csq, gat⟩ := setPause_line_rest same h
      refine ⟨?_, gat, fun k _ => ch_of_csq k s csq⟩
      rw [setPause_line same h]
      split
      · rw [pauseLine_fla (by rw [flagPause_fla, h]), flagPause_fla]
      · rw [resumeLine_fla (by rw [flagPause_fla, h]), flagPause_fla]

end

end Sys2Proof.Machine
end

section
namespace Sys2Proof.Machine

open Host (Outcome)

/-! # A FORELINE reading (R64) -/

theorem LinkOnly.ch {s t : State} (h : LinkOnly s t) (c : Chamber) : t.ch c = s.ch c := ch_of_csq c s h.csq

/-- The arbiter has the pressure of a reading (R64). -/
def withForeline (p : Nat) (s : State) : State := s.modFla (fun a => { a with pressure := some p })

/-- A valid FORELINE reply sets the pressure and then the flag; before and after only the Instrument Link works (R144, R150, R152). -/
theorem foreline_reading {s : State} {bs : BusReply} {x : Txn} {data : List Byte} (served : Served s)
    (g : GivesReading s bs x .tool .foreline data) (state : (s.pollDyn x.entry).state ≠ .failed) :
    ∃ u t, LinkOnly (withForeline (bytesNat data) s) u ∧ exec (.instrumentReply bs) s = .next t ∧
      LinkOnly (setPause (pauseAfter s (bytesNat data)) u) t := by
  have valid := linkOnly_validReply g.owner g.role state
  generalize hw : validReply x.entry s = w at valid
  have link : LinkOnly (withForeline (bytesNat data) s) (withForeline (bytesNat data) w) :=
    ⟨valid.csq, congrArg (fun a : Fla => { a with pressure := some (bytesNat data) }) valid.fla, valid.gat, valid.iiu, valid.cfg,
      valid.now⟩
  have flag : pauseAfter w (bytesNat data) = pauseAfter s (bytesNat data) := by
    unfold pauseAfter
    rw [valid.fla, valid.cfg]
  have routed : routeReading (s.cfg.poll.look x.entry) x.beforeStrike data w =
      setPause (pauseAfter s (bytesNat data)) (withForeline (bytesNat data) w) := by
    rw [routeReading_foreline g.owner g.role, takeForelineReading, flag]
    rfl
  refine ⟨_, _, link, (exec_reading g).trans (by rw [hw, routed]), linkOnly_reply_end ?_⟩
  have gat := (setPause_frame (pauseAfter s (bytesNat data)) (withForeline (bytesNat data) w)).gat
  exact (congrArg Gat.serviceDue (gat.trans link.gat)).trans served

section
variable {s u : State} {p : Nat} {b : Bool} (link : LinkOnly (withForeline p s) u)
include link

/-- What a FORELINE reading leaves whoever holds the foreline. -/
theorem setPause_reading_frame : let t := setPause b u
    t.fla = { s.fla with pressure := some p, pause := b, list := t.fla.list, progress := t.fla.progress, pumps := t.fla.pumps } ∧
    (∀ k : Chamber, s.fla.holder ≠ some (.chamber k) → t.ch k = s.ch k) ∧ t.gat = s.gat ∧ t.iiu = s.iiu ∧ t.cfg = s.cfg ∧
    t.now = s.now := by
  intro t
  obtain ⟨fla, gat, others⟩ := setPause_frame b u
  have keep := keeps_setPause (Keeps.refl u) b
  refine ⟨fla.trans ?_, fun k ne => (others k ?_).trans (link.ch k), gat.trans link.gat, keep.iiu.trans link.iiu,
    keep.cfg.trans link.cfg, keep.now.trans link.now⟩
  · rw [link.fla]
    rfl
  · rw [link.fla]
    exact ne

theorem setPause_reading_same (h : b = s.fla.pause) :
    (setPause b u).fla = { s.fla with pressure := some p } ∧ (setPause b u).csq = s.csq := by
  rw [setPause_same (by rw [link.fla, h]; rfl)]
  exact ⟨link.fla, link.csq⟩

/-- The flag changes while a chamber holds the foreline: it is paused where it roughs, and resumed where it was paused. -/
theorem setPause_reading_chamber {c : Chamber} {e : StepCtx} (h : s.fla.holder = some (.chamber c)) (hx : (s.ch c).exec = some e)
    (ne : b ≠ s.fla.pause) : let t := setPause b u
    t.fla = { s.fla with pressure := some p, pause := b } ∧
    (∀ sub : SubPhase, b = true → (s.ch c).inPhase sub.phase = true → t.ch c = (s.ch c).pausedIn s c e sub) ∧
    (∀ sub : SubPhase, b = false → (s.ch c).inPhase .roughPaused = true → e.paused = some sub →
      (t.ch c).state = .running ∧ (t.ch c).phase = sub.phase ∧
      ((s.ch c).gate.isClosed = true → (s.ch c).vent.isClosed = true →
        (t.ch c).roughSoft.cmd = true ∧ (sub = .fast → (t.ch c).roughFast.cmd = true))) := by
  intro t
  have pause : u.fla.pause ≠ b := by rw [link.fla]; exact ne.symm
  have holder : u.fla.holder = some (.chamber c) := by rw [link.fla]; exact h
  have ch : (flagPause u b).ch c = s.ch c := (flagPause_ch u b c).trans (link.ch c)
  have fla : (flagPause u b).fla = { s.fla with pressure := some p, pause := b } := by rw [flagPause_fla, link.fla]; rfl
  refine ⟨(setPause_chamberOnly pause holder).fla.trans fla, fun sub set rough => ?_, fun sub clear paused rec => ?_⟩
  · have taken : t = takePause c (flagPause u b) := (setPause_chamber pause holder).trans (if_pos set)
    rw [taken, takePause_ch (ch ▸ hx) (ch ▸ rough), ch]
    unfold Csq.pausedIn
    rw [flagPause_now, flagPause_cfg, link.now, link.cfg]
    rfl
  · have taken : t = takeResume c (flagPause u b) := (setPause_chamber pause holder).trans (if_neg (by rw [clear]; decide))
    rw [taken, takeResume_eq (ch ▸ hx) (ch ▸ paused) rec]
    obtain ⟨state, phase, opens⟩ := enterSub_ch c sub (flagPause u b)
    rw [ch] at state opens
    refine ⟨state.trans (of_decide_eq_true (Bool.and_eq_true_iff.1 paused).1), phase, fun gate vent => opens gate vent ?_⟩
    rw [fla]
    exact h

/-- The flag changes while a line holds the foreline: its progress and its pump valve follow the flag. -/
theorem setPause_reading_line {l : Line} (h : s.fla.holder = some (.line l)) (ne : b ≠ s.fla.pause) : let t := setPause b u
    t.csq = s.csq ∧
    (b = true → t.fla.progress = none ∧ t.fla.pumps.look l = (s.fla.pumps.look l).commandClose s.now s.cfg.pumpTravel ∧
      t.fla.list = s.fla.list.map (fun q => if q.line = l then { q with acc := q.progress s } else q)) ∧
    (b = false → t.fla.progress = some s.now ∧ t.fla.list = s.fla.list ∧
      t.fla.pumps.look l = (s.fla.pumps.look l).commandOpen s.now s.cfg.pumpTravel s.iiu.forcing) := by
  intro t
  have pause : u.fla.pause ≠ b := by rw [link.fla]; exact ne.symm
  have holder : u.fla.holder = some (.line l) := by rw [link.fla]; exact h
  have flagged : (flagPause u b).fla.holder = some (.line l) := by rw [flagPause_fla]; exact holder
  have progress : ∀ q : PumpEntry, q.progress (flagPause u b) = q.progress s := by
    intro q
    simp only [PumpEntry.progress, flagPause_fla, flagPause_now, link.fla, link.now]
    rfl
  refine ⟨(setPause_line_rest pause holder).1.trans link.csq, fun set => ?_, fun clear => ?_⟩
  · have taken : t = pauseLine (flagPause u b) l := (setPause_line pause holder).trans (if_pos set)
    rw [taken, pauseLine_fla flagged]
    simp only [progress, flagPause_fla, flagPause_now, flagPause_cfg, link.fla, link.now, link.cfg, Table.look_put_same]
    exact ⟨trivial, rfl, rfl⟩
  · have taken : t = resumeLine (flagPause u b) l := (setPause_line pause holder).trans (if_neg (by rw [clear]; decide))
    rw [taken, resumeLine_fla flagged]
    simp only [flagPause_fla, flagPause_now, flagPause_cfg, flagPause_iiu, link.fla, link.now, link.cfg, link.iiu,
      Table.look_put_same]
    exact ⟨rfl, rfl, rfl⟩

end

/-- Settles O30: RSUS by its owner's act on the chamber (rsus_accepted); a FORELINE reading by the flag's change alone
(foreline_reading), whose effect is the holder's (setPause_reading_chamber, setPause_reading_line). -/
theorem roughingSuspended : Obligations.RoughingSuspended := by
  refine ⟨fun s f c served asks body => ?_, fun s bs x data served g state => ?_⟩
  · have target : bodyChamber f.body = some c := body ▸ bodyChamber_u8 c
    refine ⟨fun idle => refuses_of_refuse rfl asks served (actRsus_idle target idle), fun e hx => ⟨?_, ?_⟩⟩
    · exact fun run susp queue => rsus_accepted asks target hx run susp queue
    · exact rsus_refused served asks target hx
  · obtain ⟨u, t, link, ran, ended⟩ := foreline_reading served g state
    obtain ⟨fla, others, gat, iiu, cfg, now⟩ := setPause_reading_frame (b := pauseAfter s (bytesNat data)) link
    have arbiter := ended.fla.trans fla
    refine ⟨t, ran, by rw [arbiter], by rw [arbiter]; rfl, by rw [arbiter], by rw [arbiter], by rw [arbiter], by rw [arbiter],
      fun k ne => (ended.ch k).trans (others k ne), ended.gat.trans gat, ended.iiu.trans iiu, ended.cfg.trans cfg,
      ended.now.trans now, fun same => ?_, fun c e holder hx ne => ?_, fun l holder ne => ?_⟩
    · obtain ⟨fla, csq⟩ := setPause_reading_same link same
      exact ⟨ended.fla.trans fla, ended.csq.trans csq⟩
    · rw [ended.fla, ended.ch c]
      exact setPause_reading_chamber link holder hx ne
    · rw [ended.fla, ended.csq]
      exact setPause_reading_line link holder ne

end Sys2Proof.Machine
end

section
namespace Sys2Proof.Machine

/-! # What the foreline law speaks of, and the operations that leave it (R58) -/

/-- The arbiter's state and every chamber's rough valves: what the foreline law is about. -/
def forelineOf (s : State) : Fla × (Chamber → Valve × Valve) :=
  (s.fla, fun c => ((s.ch c).roughSoft, (s.ch c).roughFast))

section
variable (s : State)

@[simp] theorem forelineOf_modCh (c : Chamber) {f : Csq → Csq} (soft : (f (s.ch c)).roughSoft = (s.ch c).roughSoft)
    (fast : (f (s.ch c)).roughFast = (s.ch c).roughFast) : forelineOf (s.modCh c f) = forelineOf s := by
  unfold forelineOf
  refine congrArg (Prod.mk _) (funext fun d => ?_)
  by_cases e : c = d
  · subst e; simp [soft, fast]
  · simp [e]

@[simp] theorem forelineOf_modExec (c : Chamber) (f : StepCtx → StepCtx) : forelineOf (s.modExec c f) = forelineOf s := by
  simp [State.modExec]
@[simp] theorem forelineOf_modChan (c : Chamber) (k : Channel) (f : ChanCtx → ChanCtx) :
    forelineOf (s.modChan c k f) = forelineOf s := rfl
@[simp] theorem forelineOf_modGat (f : Gat → Gat) : forelineOf (s.modGat f) = forelineOf s := rfl
@[simp] theorem forelineOf_modLine (l : Line) (f : LineDyn → LineDyn) : forelineOf (s.modLine l f) = forelineOf s := rfl
@[simp] theorem forelineOf_modIlc (f : Ilc → Ilc) : forelineOf (s.modIlc f) = forelineOf s := rfl
@[simp] theorem forelineOf_modPoll (e : EntryIx) (f : PollDyn → PollDyn) : forelineOf (s.modPoll e f) = forelineOf s := rfl
@[simp] theorem forelineOf_modIiu (f : Iiu → Iiu) : forelineOf (s.modIiu f) = forelineOf s := rfl
@[simp] theorem forelineOf_modInp (i : Input) (f : InState → InState) : forelineOf (s.modInp i f) = forelineOf s := rfl
@[simp] theorem forelineOf_modSvl (f : Svl → Svl) : forelineOf (s.modSvl f) = forelineOf s := rfl
@[simp] theorem forelineOf_modCfg (f : Cfg → Cfg) : forelineOf (s.modCfg f) = forelineOf s := rfl

/-- A test both branches of which leave the foreline alone leaves it alone: simp closes the ite with equal branches. -/
@[simp] theorem forelineOf_ite (p : Prop) [Decidable p] (t u : State) :
    forelineOf (if p then t else u) = if p then forelineOf t else forelineOf u := apply_ite forelineOf p t u

theorem forelineOf_foldl {α : Type} {f : State → α → State} (hf : ∀ u a, forelineOf (f u a) = forelineOf u) (xs : List α) :
    forelineOf (xs.foldl f s) = forelineOf s := by
  induction xs generalizing s with
  | nil => rfl
  | cons a rest ih => exact (ih (f s a)).trans (hf s a)

end

section
variable (c : Chamber) (l : Line) (k : Channel) (s : State)

/-! ## Ops.lean -/

@[simp] theorem forelineOf_post (e : Event) : forelineOf (post e s) = forelineOf s := by simp [forelineOf]
@[simp] theorem forelineOf_postChstate : forelineOf (postChstate c s) = forelineOf s := by simp [postChstate]
@[simp] theorem forelineOf_postForeline : forelineOf (postForeline s) = forelineOf s := by simp [postForeline]
@[simp] theorem forelineOf_closeGate : forelineOf (closeValve c .gate s) = forelineOf s := by simp [closeValve, Csq.setValve]
@[simp] theorem forelineOf_closeVent : forelineOf (closeValve c .vent s) = forelineOf s := by simp [closeValve, Csq.setValve]
@[simp] theorem forelineOf_openGate : forelineOf (openGate c s) = forelineOf s := by simp [openGate, driveOpen, Csq.setValve]
@[simp] theorem forelineOf_openVent : forelineOf (openVent c s) = forelineOf s := by simp [openVent, driveOpen, Csq.setValve]
@[simp] theorem forelineOf_startRoughTimer : forelineOf (startRoughTimer c s) = forelineOf s := by simp [startRoughTimer]
@[simp] theorem forelineOf_stopRoughTimer : forelineOf (stopRoughTimer c s) = forelineOf s := by simp [stopRoughTimer]
@[simp] theorem forelineOf_enterPhase (p : Phase) : forelineOf (enterPhase c p s) = forelineOf s := by simp [enterPhase]
@[simp] theorem forelineOf_startMain : forelineOf (startMain c s) = forelineOf s := by simp [startMain]
@[simp] theorem forelineOf_urgentMark (r : Role) : forelineOf (urgentMark c r s) = forelineOf s := by simp [forelineOf]
@[simp] theorem forelineOf_addResidue (g : Option GasClass) : forelineOf (addResidue c g s) = forelineOf s := by
  unfold addResidue; split <;> simp

@[simp] theorem forelineOf_setTarget (v : Nat) : forelineOf (setTarget c k v s) = forelineOf s := by simp [setTarget]
@[simp] theorem forelineOf_setTargets (want : Channel → Nat) : forelineOf (setTargets c want s) = forelineOf s :=
  forelineOf_foldl s (by simp) _
@[simp] theorem forelineOf_zeroTargets : forelineOf (zeroTargets c s) = forelineOf s := by simp [zeroTargets]
@[simp] theorem forelineOf_zeroCurrents : forelineOf (zeroCurrents c s) = forelineOf s := forelineOf_foldl s (by simp) _
@[simp] theorem forelineOf_clearDeviations : forelineOf (clearDeviations c s) = forelineOf s :=
  forelineOf_foldl s (by simp) _
@[simp] theorem forelineOf_setThrottle (t : Throttle) : forelineOf (setThrottle c t s) = forelineOf s := by simp [setThrottle]
@[simp] theorem forelineOf_setSource (w : Nat) : forelineOf (setSource c w s) = forelineOf s := by simp [setSource]
@[simp] theorem forelineOf_setBias (w : Nat) : forelineOf (setBias c w s) = forelineOf s := by simp [setBias]
@[simp] theorem forelineOf_stopRf : forelineOf (stopRf c s) = forelineOf s := by simp [stopRf]
@[simp] theorem forelineOf_leaveQueue : forelineOf (leaveQueue c s) = forelineOf s := by simp [leaveQueue]
@[simp] theorem forelineOf_oweService : forelineOf (oweService s) = forelineOf s := by simp [oweService]
@[simp] theorem forelineOf_releaseHoldings : forelineOf (releaseHoldings c s) = forelineOf s := by simp [releaseHoldings]
@[simp] theorem forelineOf_fileReport (r : Report) : forelineOf (fileReport c r s) = forelineOf s := by
  unfold fileReport
  exact forelineOf_modCh s c (by split <;> rfl) (by split <;> rfl)

@[simp] theorem forelineOf_setLineState (st : LineState) (cause : LineCause) :
    forelineOf (setLineState l st cause s) = forelineOf s := by
  simp [setLineState]

/-! ## Chamber.lean -/

@[simp] theorem Csq.setSlot_roughSoft (q : Csq) (sl : Slot) (r : Option StepRec) : (q.setSlot sl r).roughSoft = q.roughSoft := by
  cases sl <;> rfl
@[simp] theorem Csq.setSlot_roughFast (q : Csq) (sl : Slot) (r : Option StepRec) : (q.setSlot sl r).roughFast = q.roughFast := by
  cases sl <;> rfl

@[simp] theorem forelineOf_endStep (res : Result) : forelineOf (endStep c res s) = forelineOf s := by
  unfold endStep; split <;> simp

@[simp] theorem forelineOf_flushWaiting : forelineOf (flushWaiting c s) = forelineOf s := by
  unfold flushWaiting; split <;> simp

@[simp] theorem forelineOf_enterHeld : forelineOf (enterHeld c s) = forelineOf s := by simp [enterHeld]
@[simp] theorem forelineOf_abortValves : forelineOf (abortValves c s) = forelineOf s := by
  unfold abortValves; split <;> simp

/-! ## Gas.lean -/

@[simp] theorem forelineOf_sendFla (m : ListMsg) : forelineOf (sendFla m l s) = forelineOf s := by simp [sendFla]
@[simp] theorem forelineOf_takePumpMsg (m : PumpMsg) : forelineOf (takePumpMsg m l s) = forelineOf s := by
  unfold takePumpMsg; split <;> simp

/-! ## Process.lean -/

@[simp] theorem forelineOf_enterHighVac : forelineOf (enterHighVac c s) = forelineOf s := by simp [enterHighVac]
@[simp] theorem forelineOf_enterVenting : forelineOf (enterVenting c s) = forelineOf s := by simp [enterVenting]
@[simp] theorem forelineOf_ventIsolateOn : forelineOf (ventIsolateOn c s) = forelineOf s := by simp [ventIsolateOn]
@[simp] theorem forelineOf_startVent : forelineOf (startVent c s) = forelineOf s := by simp [startVent]
@[simp] theorem forelineOf_enterSteady (r : StepRec) : forelineOf (enterSteady c r s) = forelineOf s := by simp [enterSteady]
@[simp] theorem forelineOf_markBeforeStrike : forelineOf (markBeforeStrike c s) = forelineOf s := rfl
@[simp] theorem forelineOf_startRf (r : StepRec) : forelineOf (startRf c r s) = forelineOf s := by simp [startRf]
@[simp] theorem forelineOf_enterOveretch (o : Nat) : forelineOf (enterOveretch c o s) = forelineOf s := by simp [enterOveretch]
@[simp] theorem forelineOf_enterCycling (r : StepRec) : forelineOf (enterCycling c r s) = forelineOf s := by simp [enterCycling]
@[simp] theorem forelineOf_choosePressure : forelineOf (choosePressure c s) = forelineOf s := by simp [choosePressure]
@[simp] theorem forelineOf_trackMinMax : forelineOf (trackMinMax c s) = forelineOf s := by
  unfold trackMinMax; split <;> simp

@[simp] theorem forelineOf_excursionTest (e : StepCtx) (target : Nat) :
    forelineOf (excursionTest c e target s) = forelineOf s := by
  simp [excursionTest]

/-! ## Flow.lean -/

@[simp] theorem forelineOf_rampUpdate : forelineOf (rampUpdate c k s) = forelineOf s := by simp [rampUpdate]
@[simp] theorem forelineOf_integrateReading (m dt : Nat) : forelineOf (integrateReading c k m dt s) = forelineOf s := by
  unfold integrateReading
  dsimp only
  split
  · simp
  · split <;> simp

@[simp] theorem forelineOf_takeFlowReading (r : Nat) : forelineOf (takeFlowReading c k r s) = forelineOf s := by
  simp [takeFlowReading]

/-! ## Instruments.lean -/

@[simp] theorem forelineOf_forgetReading (r : Role) : forelineOf (forgetReading c r s) = forelineOf s := by
  unfold forgetReading; split <;> simp

@[simp] theorem forelineOf_postInstr (e : EntryIx) (p : PollCfg) (st : InstState) (reason : InstReason) :
    forelineOf (postInstr e p st reason s) = forelineOf s := by
  simp [postInstr]

/-- The Instrument Link's own work does not reach the foreline (R144, R146). -/
theorem LinkOnly.foreline {s t : State} (h : LinkOnly s t) : forelineOf t = forelineOf s := by
  simp only [forelineOf, State.ch, h.fla, h.csq]

@[simp] theorem forelineOf_beginFrame : forelineOf (beginFrame s) = forelineOf s := (linkOnly_beginFrame (LinkOnly.refl s)).foreline
@[simp] theorem forelineOf_endTxn : forelineOf (endTxn s) = forelineOf s := (linkOnly_endTxn (LinkOnly.refl s)).foreline

/-! ## Interlocks.lean -/

@[simp] theorem forelineOf_tellOwners (i : Input) (b : Bool) : forelineOf (tellOwners i b s) = forelineOf s := by simp [tellOwners]
@[simp] theorem forelineOf_qualify (i : Input) (b : Bool) : forelineOf (qualify i b s) = forelineOf s := by simp [qualify]

end

end Sys2Proof.Machine
end

section
namespace Sys2Proof.Machine

/-! # The foreline law under the arbiter's operations (R58, R61 to R71) -/

/-- A rough valve of the chamber is commanded open. -/
def Csq.roughCmd (q : Csq) : Bool := q.roughSoft.cmd || q.roughFast.cmd

/-- Every valve into the foreline is commanded closed. -/
structure AllClosed (s : State) : Prop where
  rough : ∀ c : Chamber, (s.ch c).roughCmd = false
  pump : ∀ l : Line, (s.fla.pumps.look l).cmd = false

theorem forelineValveOpen_eq_false {s : State} : forelineValveOpen s = false ↔
    (∀ c : Chamber, (s.ch c).roughOpen = false) ∧ ∀ l : Line, (s.fla.pumps.look l).countsOpen = false := by
  simp [forelineValveOpen]

section
variable {s t : State}

/-- The rough valves of two states with the same foreline. -/
theorem rough_of_foreline (h : forelineOf t = forelineOf s) (c : Chamber) :
    (t.ch c).roughSoft = (s.ch c).roughSoft ∧ (t.ch c).roughFast = (s.ch c).roughFast :=
  Prod.ext_iff.1 (congrFun (congrArg Prod.snd h) c)

theorem roughCmd_of_foreline (h : forelineOf t = forelineOf s) (c : Chamber) : (t.ch c).roughCmd = (s.ch c).roughCmd := by
  obtain ⟨soft, fast⟩ := rough_of_foreline h c
  rw [Csq.roughCmd, soft, fast, Csq.roughCmd]

theorem roughOpen_of_foreline (h : forelineOf t = forelineOf s) (c : Chamber) : (t.ch c).roughOpen = (s.ch c).roughOpen := by
  obtain ⟨soft, fast⟩ := rough_of_foreline h c
  rw [Csq.roughOpen, soft, fast, Csq.roughOpen]

/-- Where no valve is commanded open or counts open, the law asks only that the holder is of the state's kind. -/
theorem ForelineLaw.of_shut (closed : AllClosed s) (shut : forelineValveOpen s = false ∨ s.fla.state = .handover)
    (free : s.fla.state = .idle ∨ s.fla.state = .handover → s.fla.holder = none)
    (chamber : s.fla.state = .heldChamber → ∃ c, s.fla.holder = some (.chamber c))
    (line : s.fla.state = .heldPumpout → ∃ l, s.fla.holder = some (.line l)) : ForelineLaw s where
  free := free
  chamber := chamber
  line := line
  roughCmd c h := absurd h (Bool.eq_false_iff.1 (closed.rough c))
  pumpCmd l h := absurd h (Bool.eq_false_iff.1 (closed.pump l))
  roughOpen st c h := absurd h (Bool.eq_false_iff.1 ((forelineValveOpen_eq_false.1 (shut.resolve_right st)).1 c))
  pumpOpen st l h := absurd h (Bool.eq_false_iff.1 ((forelineValveOpen_eq_false.1 (shut.resolve_right st)).2 l))

theorem AllClosed.of_foreline (closed : AllClosed s) (h : forelineOf t = forelineOf s) : AllClosed t where
  rough c := (roughCmd_of_foreline h c).trans (closed.rough c)
  pump l := by rw [show t.fla = s.fla from congrArg Prod.fst h]; exact closed.pump l

/-- A valve that is commanded open or counts open is engaged. -/
theorem Valve.engaged_iff {v : Valve} : v.engaged = true ↔ v.cmd = true ∨ v.countsOpen = true := by simp [Valve.engaged]

theorem Csq.roughEngaged_iff {q : Csq} : q.roughEngaged = true ↔ q.roughCmd = true ∨ q.roughOpen = true := by
  simp only [Csq.roughEngaged, Csq.roughCmd, Csq.roughOpen, Bool.or_eq_true, Valve.engaged_iff]
  tauto

/-- The law asks that valves are closed: with fewer commanded open, and none open that was not engaged, it holds as well. -/
theorem ForelineLaw.mono (law : ForelineLaw s) (state : t.fla.state = s.fla.state) (holder : t.fla.holder = s.fla.holder)
    (roughCmd : ∀ c, (t.ch c).roughCmd = true → (s.ch c).roughCmd = true)
    (roughOpen : ∀ c, (t.ch c).roughOpen = true → (s.ch c).roughEngaged = true)
    (pumpCmd : ∀ l, (t.fla.pumps.look l).cmd = true → (s.fla.pumps.look l).cmd = true)
    (pumpOpen : ∀ l, (t.fla.pumps.look l).countsOpen = true → (s.fla.pumps.look l).engaged = true) : ForelineLaw t where
  free h := holder.trans (law.free (state ▸ h))
  chamber h := holder ▸ law.chamber (state ▸ h)
  line h := holder ▸ law.line (state ▸ h)
  roughCmd c h := holder.trans (law.roughCmd c (roughCmd c h))
  pumpCmd l h := holder.trans (law.pumpCmd l (pumpCmd l h))
  roughOpen st c h := holder.trans ((Csq.roughEngaged_iff.1 (roughOpen c h)).elim (law.roughCmd c) (law.roughOpen (state ▸ st) c))
  pumpOpen st l h := holder.trans ((Valve.engaged_iff.1 (pumpOpen l h)).elim (law.pumpCmd l) (law.pumpOpen (state ▸ st) l))

theorem ForelineLaw.of_foreline (law : ForelineLaw s) (h : forelineOf t = forelineOf s) : ForelineLaw t := by
  have fla : t.fla = s.fla := congrArg Prod.fst h
  refine law.mono (by rw [fla]) (by rw [fla]) (fun c => (roughCmd_of_foreline h c ▸ ·)) (fun c opens => ?_)
    (fun l => by rw [fla]; exact id) (fun l opens => ?_)
  · exact Csq.roughEngaged_iff.2 (.inr (roughOpen_of_foreline h c ▸ opens))
  · exact Valve.engaged_iff.2 (.inr (fla ▸ opens))

theorem ForelineLaw.ite {p : Prop} [Decidable p] (yes : ForelineLaw t) (no : ForelineLaw s) : ForelineLaw (if p then t else s) := by
  split
  · exact yes
  · exact no

theorem forelineLaw_foldl {α : Type} {f : State → α → State} (hf : ∀ u a, ForelineLaw u → ForelineLaw (f u a))
    {s : State} (law : ForelineLaw s) (xs : List α) : ForelineLaw (xs.foldl f s) := by
  induction xs generalizing s with
  | nil => exact law
  | cons a rest ih => exact ih (hf s a law)

end

section
variable {s : State} (law : ForelineLaw s)
include law

/-! ## Valves -/

/-- A change of the arbiter that moves neither its state nor its holder nor a valve. -/
theorem ForelineLaw.modFla {f : Fla → Fla} (state : (f s.fla).state = s.fla.state) (holder : (f s.fla).holder = s.fla.holder)
    (pumps : (f s.fla).pumps = s.fla.pumps) : ForelineLaw (s.modFla f) :=
  law.mono state holder (fun _ => id) (fun _ opens => Csq.roughEngaged_iff.2 (.inr opens))
    (fun l => by rw [State.modFla_fla, pumps]; exact id)
    (fun l opens => Valve.engaged_iff.2 (.inr (by rwa [State.modFla_fla, pumps] at opens)))

/-- The holder's rough valves may be moved in any way. -/
theorem ForelineLaw.modCh_of_holder {c : Chamber} (h : s.fla.holder = some (.chamber c)) (f : Csq → Csq) :
    ForelineLaw (s.modCh c f) where
  free := law.free
  chamber := law.chamber
  line := law.line
  pumpCmd := law.pumpCmd
  pumpOpen := law.pumpOpen
  roughCmd d hd := by
    by_cases e : c = d
    · exact e ▸ h
    · exact law.roughCmd d (by rwa [State.modCh_ch_ne s f e] at hd)
  roughOpen st d hd := by
    by_cases e : c = d
    · exact e ▸ h
    · exact law.roughOpen st d (by rwa [State.modCh_ch_ne s f e] at hd)

/-- The holder's pump valve may be moved in any way. -/
theorem ForelineLaw.modPump_of_holder {l : Line} (h : s.fla.holder = some (.line l)) (f : Valve → Valve) :
    ForelineLaw (modPump l f s) where
  free := law.free
  chamber := law.chamber
  line := law.line
  roughCmd := law.roughCmd
  roughOpen := law.roughOpen
  pumpCmd m hm := by
    by_cases e : l = m
    · exact e ▸ h
    · exact law.pumpCmd m (by simpa [modPump, e] using hm)
  pumpOpen st m hm := by
    by_cases e : l = m
    · exact e ▸ h
    · exact law.pumpOpen st m (by simpa [modPump, e] using hm)

/-- A change of a chamber that commands no rough valve open, and opens none that was not commanded open. -/
theorem ForelineLaw.modCh (c : Chamber) {f : Csq → Csq} (cmd : (f (s.ch c)).roughCmd = true → (s.ch c).roughCmd = true)
    (opens : (f (s.ch c)).roughOpen = true → (s.ch c).roughEngaged = true) : ForelineLaw (s.modCh c f) := by
  refine law.mono rfl rfl (fun d => ?_) (fun d => ?_) (fun _ => id) (fun _ h => Valve.engaged_iff.2 (.inr h))
  · by_cases e : c = d
    · subst e; simpa using cmd
    · simp [e]
  · by_cases e : c = d
    · subst e; simpa using opens
    · simpa [e] using fun h => Csq.roughEngaged_iff.2 (.inr h)

/-- A change of a pump valve that neither commands it open nor opens it. -/
theorem ForelineLaw.modPump (l : Line) {f : Valve → Valve} (cmd : ∀ v : Valve, (f v).cmd = true → v.cmd = true)
    (opens : ∀ v : Valve, (f v).countsOpen = true → v.countsOpen = true) : ForelineLaw (Machine.modPump l f s) := by
  refine law.mono rfl rfl (fun _ => id) (fun _ h => Csq.roughEngaged_iff.2 (.inr h)) (fun m => ?_)
    (fun m h => Valve.engaged_iff.2 (.inr ?_))
  · by_cases e : l = m
    · subst e; simpa [Machine.modPump] using cmd _
    · simp [Machine.modPump, e]
  · by_cases e : l = m
    · subst e; exact opens _ (by simpa [Machine.modPump] using h)
    · simpa [Machine.modPump, e] using h

/-- A close command to a rough valve. -/
theorem ForelineLaw.closeValve (c : Chamber) (v : ChamberValve) : ForelineLaw (closeValve c v s) := by
  refine law.modCh c ?_ (fun h => Csq.roughEngaged_iff.2 (.inr ?_))
  · cases v <;> simp +contextual [Csq.roughCmd, Csq.setValve, Valve.commandClose]
  · cases v <;> simpa [Csq.roughOpen, Csq.setValve, Csq.valve] using h

theorem ForelineLaw.closeRough (c : Chamber) : ForelineLaw (closeRough c s) := (law.closeValve c .roughSoft).closeValve c .roughFast

theorem ForelineLaw.openRough (c : Chamber) : ForelineLaw (openRough c s) := by
  rw [openRough_eq]
  refine dite _ (fun may => ?_) (fun shut => by rwa [if_neg shut])
  have holder : s.fla.holder = some (.chamber c) := by
    simp only [mayOpenRough, holdsForeline, Bool.and_eq_true, decide_eq_true_eq] at may
    exact may.2
  have soft : ForelineLaw (driveOpen c .roughSoft s) := law.modCh_of_holder holder _
  have driven : ForelineLaw (driveRough c s) := ForelineLaw.ite (soft.modCh_of_holder holder _) soft
  rw [if_pos may]
  exact (driven.of_foreline (by simp)).ite driven

theorem ForelineLaw.closePump (l : Line) : ForelineLaw (closePump l s) :=
  law.modPump l (by simp [Valve.commandClose]) (by simp)

theorem ForelineLaw.openPump (l : Line) : ForelineLaw (openPump l s) := by
  unfold Machine.openPump
  split
  · rename_i h; exact law.modPump_of_holder h _
  · exact law

theorem ForelineLaw.sendGat (m : PumpMsg) (l : Line) : ForelineLaw (sendGat m l s) := law.modFla rfl rfl rfl

theorem ForelineLaw.stopProgress : ForelineLaw (stopProgress s) := by
  unfold Machine.stopProgress
  split
  · exact law.modFla rfl rfl rfl
  · exact law.modFla rfl rfl rfl

theorem ForelineLaw.dropEntry (l : Line) : ForelineLaw (dropEntry l s) := law.modFla rfl rfl rfl

theorem ForelineLaw.withdraw (c : Chamber) : ForelineLaw (withdraw c s) := law.modFla rfl rfl rfl

/-! ## The chamber's side (R41 to R48) -/

theorem ForelineLaw.enterSub (c : Chamber) (p : SubPhase) : ForelineLaw (enterSub c p s) :=
  (law.of_foreline (t := enterPhase c p.phase s) (by simp)).openRough c

theorem ForelineLaw.takeGrant (c : Chamber) : ForelineLaw (takeGrant c s) := by
  unfold Machine.takeGrant
  split
  · exact law
  · exact (law.of_foreline (by simp)).ite (law.enterSub c _)

theorem ForelineLaw.takePause (c : Chamber) : ForelineLaw (takePause c s) := by
  have paused (sub : SubPhase) : ForelineLaw
      (enterPhase c .roughPaused (Machine.closeRough c (s.modExec c (fun e => { e with paused := some sub })))) := by
    refine ForelineLaw.of_foreline (s := Machine.closeRough c (s.modExec c _)) ?_ (forelineOf_enterPhase c _ _)
    exact (law.of_foreline (by simp)).closeRough c
  exact (paused .soft).ite ((paused .fast).ite law)

theorem ForelineLaw.takeResume (c : Chamber) : ForelineLaw (takeResume c s) := (law.enterSub c _).ite law

end

/-! ## The grant decision (R62) -/

section
variable {s : State}

/-- A decision is made where no valve into the foreline is commanded open or counts open. -/
structure Undecided (s : State) : Prop where
  closed : AllClosed s
  shut : forelineValveOpen s = false

/-- The arbiter's other data are free. -/
theorem Undecided.modFla (h : Undecided s) {f : Fla → Fla} (pumps : (f s.fla).pumps = s.fla.pumps) : Undecided (s.modFla f) :=
  ⟨⟨h.closed.rough, fun l => by rw [State.modFla_fla, pumps]; exact h.closed.pump l⟩,
   by rw [forelineValveOpen, State.modFla_fla, pumps]; exact h.shut⟩

theorem Undecided.of_foreline {t : State} (h : Undecided s) (same : forelineOf t = forelineOf s) : Undecided t where
  closed := h.closed.of_foreline same
  shut := by
    obtain ⟨rough, pump⟩ := forelineValveOpen_eq_false.1 h.shut
    refine forelineValveOpen_eq_false.2 ⟨fun c => (roughOpen_of_foreline same c).trans (rough c), fun l => ?_⟩
    rw [show t.fla = s.fla from congrArg Prod.fst same]
    exact pump l

theorem Undecided.toIdle (h : Undecided s) : ForelineLaw (toIdle s) := by
  unfold Machine.toIdle
  split
  · rename_i idle
    exact .of_shut h.closed (.inl h.shut) (fun _ => idle.2) (by simp [idle.1]) (by simp [idle.1])
  · have u := h.modFla (f := fun a => { a with state := .idle, holder := none, progress := none }) rfl
    exact ForelineLaw.of_foreline (.of_shut u.closed (.inl u.shut) (by simp) (by simp) (by simp)) (forelineOf_postForeline _)

theorem Undecided.grantChamber (h : Undecided s) (c : Chamber) : ForelineLaw (grantChamber c s) := by
  have u := h.modFla (f := fun a =>
    { a with state := .heldChamber, holder := some (.chamber c), waiting := a.waiting.put c false, progress := none }) rfl
  have granted : ForelineLaw _ := .of_shut u.closed (.inl u.shut) (by simp) (fun _ => ⟨c, rfl⟩) (by simp)
  exact (granted.of_foreline (forelineOf_postForeline _)).takeGrant c

/-- A line granted the foreline at the head of the list, and told of (R62, R66). -/
def beginLine (p : PumpEntry) (rest : List PumpEntry) (s : State) : State :=
  postForeline (sendGat .begun p.line (s.modFla (fun a =>
    { a with
      state := .heldPumpout, holder := some (.line p.line), pumpMs := pumpTimeMs s p.line, progress := none,
      list := p :: rest })))

/-- A line granted the foreline whose pump-out is complete already (R68). -/
def skipLine (p : PumpEntry) (rest : List PumpEntry) (s : State) : State :=
  sendGat .complete p.line ((beginLine p rest s).modFla (fun a => { a with list := rest, holder := none }))

/-- A line granted the foreline whose pump-out runs (R66). -/
def runLine (p : PumpEntry) (rest : List PumpEntry) (s : State) : State :=
  openPump p.line ((beginLine p rest s).modFla (fun a => { a with progress := some (beginLine p rest s).now }))

theorem grantLines_cons (p : PumpEntry) (rest : List PumpEntry) (s : State) : grantLines (p :: rest) s =
    if pumpTimeMs s p.line ≤ p.acc then grantLines rest (skipLine p rest s)
    else if (beginLine p rest s).fla.pause then beginLine p rest s else runLine p rest s := rfl

theorem Undecided.beginLine (h : Undecided s) (p : PumpEntry) (rest : List PumpEntry) : Undecided (beginLine p rest s) :=
  ((h.modFla rfl).modFla rfl).of_foreline (forelineOf_postForeline _)

theorem Undecided.skipLine {p : PumpEntry} {rest : List PumpEntry} (u : Undecided (Machine.beginLine p rest s)) :
    Undecided (skipLine p rest s) := by
  unfold Machine.skipLine sendGat
  exact (u.modFla rfl).modFla rfl

theorem Undecided.grantLines (ps : List PumpEntry) (h : Undecided s) : ForelineLaw (grantLines ps s) := by
  induction ps generalizing s with
  | nil => exact h.toIdle
  | cons p rest ih =>
    have u := h.beginLine p rest
    have begun : ForelineLaw (Machine.beginLine p rest s) :=
      .of_shut u.closed (.inl u.shut) (by simp [Machine.beginLine, postForeline, sendGat])
        (by simp [Machine.beginLine, postForeline, sendGat])
        (fun _ => ⟨p.line, by simp [Machine.beginLine, postForeline, sendGat]⟩)
    rw [grantLines_cons]
    refine .ite (ih u.skipLine) (begun.ite ?_)
    exact (begun.modFla rfl rfl rfl).openPump p.line

theorem Undecided.grantDecision (h : Undecided s) : ForelineLaw (grantDecision s) := by
  unfold Machine.grantDecision
  refine h.toIdle.ite ?_
  split
  · exact h.grantChamber _
  · exact h.grantLines _

/-! ## Leaving the foreline (R58, R61) -/

/-- The holder leaves once every valve is commanded closed: it is HANDOVER while one counts open (R58). -/
theorem AllClosed.vacate (closed : AllClosed s) : ForelineLaw (vacate s) := by
  unfold Machine.vacate
  have left : AllClosed (s.modFla (fun a => { a with holder := none, progress := none })) := ⟨closed.rough, closed.pump⟩
  dsimp only
  split
  · have handed : ForelineLaw ((s.modFla (fun a => { a with holder := none, progress := none })).modFla
        (fun a => { a with state := .handover })) :=
      .of_shut ⟨left.rough, left.pump⟩ (.inr rfl) (fun _ => rfl) (by simp) (by simp)
    exact handed.of_foreline (forelineOf_postForeline _)
  · rename_i shut
    exact Undecided.grantDecision ⟨left, Bool.eq_false_iff.2 shut⟩

end

section
variable {s : State} (law : ForelineLaw s)
include law

/-- Without a holder every valve is commanded closed. -/
theorem ForelineLaw.allClosed (h : s.fla.holder = none) : AllClosed s where
  rough c := Bool.eq_false_iff.2 (fun e => by simpa [h] using law.roughCmd c e)
  pump l := Bool.eq_false_iff.2 (fun e => by simpa [h] using law.pumpCmd l e)

/-- Only the chamber that holds the foreline has a valve commanded open. -/
theorem ForelineLaw.allClosed_of_chamber {c : Chamber} (h : s.fla.holder = some (.chamber c)) (closed : (s.ch c).roughCmd = false) :
    AllClosed s where
  rough d := Bool.eq_false_iff.2 (fun e => by
    have same : c = d := by simpa [h] using law.roughCmd d e
    exact absurd (same ▸ e) (Bool.eq_false_iff.1 closed))
  pump l := Bool.eq_false_iff.2 (fun e => by simpa [h] using law.pumpCmd l e)

/-- Only the line that holds the foreline has a valve commanded open. -/
theorem ForelineLaw.allClosed_of_line {l : Line} (h : s.fla.holder = some (.line l)) (closed : (s.fla.pumps.look l).cmd = false) :
    AllClosed s where
  rough d := Bool.eq_false_iff.2 (fun e => by simpa [h] using law.roughCmd d e)
  pump m := Bool.eq_false_iff.2 (fun e => by
    have same : l = m := by simpa [h] using law.pumpCmd m e
    exact absurd (same ▸ e) (Bool.eq_false_iff.1 closed))

/-- Outside HANDOVER a foreline that nobody holds has no valve open. -/
theorem ForelineLaw.undecided (h : s.fla.holder = none) (shut : s.fla.state ≠ .handover ∨ forelineValveOpen s = false) :
    Undecided s where
  closed := law.allClosed h
  shut := shut.elim (fun st => forelineValveOpen_eq_false.2
    ⟨fun c => Bool.eq_false_iff.2 (fun e => by simpa [h] using law.roughOpen st c e),
     fun l => Bool.eq_false_iff.2 (fun e => by simpa [h] using law.pumpOpen st l e)⟩) id

theorem ForelineLaw.handoverCheck : ForelineLaw (handoverCheck s) := by
  unfold Machine.handoverCheck
  split
  · rename_i h; exact (law.undecided (law.free (.inr h.1)) (.inr h.2)).grantDecision
  · exact law

/-- The decision from IDLE. -/
theorem ForelineLaw.grantDecision (idle : s.fla.state = .idle) : ForelineLaw (grantDecision s) :=
  (law.undecided (law.free (.inl idle)) (.inl (by simp [idle]))).grantDecision

theorem ForelineLaw.blockCleared : ForelineLaw (blockCleared s) := by
  unfold Machine.blockCleared
  split
  · rename_i h; exact law.grantDecision h.1
  · exact law

/-- A chamber leaves the foreline with its rough valves commanded closed. -/
theorem ForelineLaw.leaveForeline {c : Chamber} (closed : (s.ch c).roughCmd = false) : ForelineLaw (leaveForeline c s) := by
  unfold Machine.leaveForeline releaseForeline
  split
  · rename_i holds
    exact ((law.withdraw c).allClosed_of_chamber (of_decide_eq_true holds) closed).vacate
  · exact law.withdraw c

/-- A line leaves the foreline with its pump valve commanded closed. -/
theorem ForelineLaw.closedPump {l : Line} (h : s.fla.holder = some (.line l)) : AllClosed (Machine.closePump l s) :=
  (law.closePump l).allClosed_of_line h (by simp [Machine.closePump, Machine.modPump, Valve.commandClose])

theorem ForelineLaw.yieldPumpout : ForelineLaw (yieldPumpout s) := by
  unfold Machine.yieldPumpout
  split
  · rename_i l h
    have holder : (Machine.stopProgress s).fla.holder = some (.line l) := by simp [Machine.stopProgress, h]
    have closed := law.stopProgress.closedPump holder
    exact AllClosed.vacate ⟨closed.rough, closed.pump⟩
  · exact law

theorem ForelineLaw.takeListing (l : Line) : ForelineLaw (takeListing l s) :=
  law.ite (law.modFla rfl rfl rfl).blockCleared

theorem ForelineLaw.takeRemoval (l : Line) : ForelineLaw (takeRemoval l s) := by
  unfold Machine.takeRemoval
  split
  · rename_i h
    have closed := law.closedPump h
    exact AllClosed.vacate ⟨closed.rough, closed.pump⟩
  · exact law.dropEntry l

theorem ForelineLaw.completePumpout {l : Line} (h : s.fla.holder = some (.line l)) : ForelineLaw (completePumpout l s) :=
  have closed := law.closedPump h
  AllClosed.vacate ⟨closed.rough, closed.pump⟩

/-! ## Requests and the backing pause (R43, R60, R64, R69) -/

theorem ForelineLaw.requestForeline (c : Chamber) : ForelineLaw (requestForeline c s) := by
  unfold Machine.requestForeline
  dsimp only
  generalize hw : stopRoughTimer c _ = w
  have same : forelineOf w = forelineOf s := hw ▸ by simp
  have asked : ForelineLaw (w.modFla (fun a => { a with waiting := a.waiting.put c true })) :=
    (law.of_foreline same).modFla rfl rfl rfl
  split
  · rename_i h
    have idle : s.fla.state = .idle := of_decide_eq_true (Bool.and_eq_true_iff.1 h).1
    have decided := asked.grantDecision (show w.fla.state = .idle by rw [show w.fla = s.fla from congrArg Prod.fst same, idle])
    exact (decided.of_foreline (by simp)).ite decided
  · exact (asked.of_foreline (forelineOf_postChstate c _)).yieldPumpout

theorem ForelineLaw.setPause (b : Bool) : ForelineLaw (setPause b s) := by
  unfold Machine.setPause
  refine law.ite ?_
  have flagged := (law.modFla (f := fun a => { a with pause := b }) rfl rfl rfl).of_foreline (forelineOf_postForeline _)
  dsimp only
  split
  · exact flagged.takePause _
  · exact flagged.takeResume _
  · exact flagged.stopProgress.closePump _
  · exact (flagged.modFla rfl rfl rfl).openPump _
  · exact flagged

theorem ForelineLaw.takeForelineReading (p : Nat) : ForelineLaw (takeForelineReading p s) :=
  (law.modFla rfl rfl rfl).setPause _

theorem ForelineLaw.forelineUnknown : ForelineLaw (forelineUnknown s) := (law.modFla rfl rfl rfl).setPause _

end

end Sys2Proof.Machine
end

section
namespace Sys2Proof.Machine

/-! # The foreline law under the chambers' operations, the gas table's and the links' (R58) -/

/-- Rough valves just commanded closed. -/
theorem closeRough_roughCmd (c : Chamber) (s : State) : ((closeRough c s).ch c).roughCmd = false := by
  simp [closeRough_ch, Csq.roughCmd, Valve.commandClose]

section
variable {s : State} (law : ForelineLaw s)
include law

/-- What every return to FAULTED or READY does at the foreline: the rough valves are commanded closed, other work is done, and the
chamber leaves. -/
theorem ForelineLaw.close_and_leave {c : Chamber} {u w : State} (before : forelineOf u = forelineOf s)
    (after : forelineOf w = forelineOf (Machine.closeRough c u)) : ForelineLaw (Machine.leaveForeline c w) :=
  (((law.of_foreline before).closeRough c).of_foreline after).leaveForeline
    ((roughCmd_of_foreline after c).trans (closeRough_roughCmd c u))

/-! ## Chamber.lean -/

theorem ForelineLaw.faultChamber (c : Chamber) (cause : Result) : ForelineLaw (faultChamber c cause s) := by
  unfold Machine.faultChamber
  refine law.ite ?_
  exact law.close_and_leave (u := setThrottle c .open (clearDeviations c (zeroCurrents c (zeroTargets c (stopRf c
    (if (s.ch c).state = .running then flushWaiting c (endStep c cause s) else s)))))) (by simp) (by simp)

theorem ForelineLaw.enterReady (c : Chamber) : ForelineLaw (enterReady c s) := by
  unfold Machine.enterReady
  exact law.close_and_leave (u := setThrottle c .open (stopRf c (clearDeviations c (zeroTargets c s)))) (by simp) (by simp)

theorem ForelineLaw.abortStep (c : Chamber) : ForelineLaw (abortStep c s) := by
  unfold Machine.abortStep
  exact (law.of_foreline (by simp)).enterReady c

/-! ## Gas.lean -/

theorem ForelineLaw.withTargets (c : Chamber) (want : Channel → Nat) {g : State → State}
    (hg : ∀ u, forelineOf (g u) = forelineOf u) : ForelineLaw (withTargets c want g s) :=
  (law.faultChamber c _).ite (law.of_foreline (by simp [hg]))

theorem ForelineLaw.enterPurge (c : Chamber) (r : StepRec) : ForelineLaw (enterPurge c r s) := by
  unfold Machine.enterPurge
  exact (law.of_foreline (by simp)).withTargets c _ (by simp)

theorem ForelineLaw.enterWork (c : Chamber) (r : StepRec) : ForelineLaw (enterWork c r s) := by
  unfold Machine.enterWork
  exact ((law.of_foreline (by simp)).withTargets c _ (by simp)).ite ((law.of_foreline (by simp)).withTargets c _ (by simp))

theorem ForelineLaw.admitChamber (c : Chamber) (rq : Request) : ForelineLaw (admitChamber c rq s) := by
  unfold Machine.admitChamber
  split
  · exact law
  · exact ((law.of_foreline (by simp)).enterPurge c _).ite ((law.of_foreline (by simp)).enterWork c _)

theorem ForelineLaw.enterAdmit (c : Chamber) (r : StepRec) : ForelineLaw (enterAdmit c r s) := by
  unfold Machine.enterAdmit
  refine ForelineLaw.ite ?_ (ForelineLaw.ite ?_ (law.of_foreline (by simp)))
  · exact (law.of_foreline (by simp)).faultChamber c _
  · exact (law.of_foreline (by simp)).admitChamber c _

theorem ForelineLaw.tryAdmit (c : Chamber) : ForelineLaw (tryAdmit c s).1 := by
  unfold Machine.tryAdmit
  split
  · split
    · exact law
    · split
      · exact law.admitChamber c _
      · exact law
  · exact law

theorem ForelineLaw.faultHolders (l : Line) : ForelineLaw (faultHolders l s) :=
  forelineLaw_foldl (fun _ c law => (law.faultChamber c _).ite law) law _

theorem ForelineLaw.faultWaiters (l : Line) : ForelineLaw (faultWaiters l s) :=
  forelineLaw_foldl (fun _ c law => (law.faultChamber c _).ite law) law _

theorem ForelineLaw.lockLine (l : Line) (cause : LineCause) : ForelineLaw (lockLine l cause s) :=
  ((((law.of_foreline (by simp)).faultHolders l).faultWaiters l)).of_foreline (forelineOf_oweService _)

theorem ForelineLaw.lockOut (l : Line) (cause : LineCause) : ForelineLaw (lockOut l cause s) :=
  ((law.lockLine l cause).of_foreline (forelineOf_sendFla l _ _)).ite (law.lockLine l cause)

theorem ForelineLaw.takeAllPumpMsgs (l : Line) : ForelineLaw (takeAllPumpMsgs l s) :=
  forelineLaw_foldl (fun _ _ law => law.of_foreline (by simp)) (law.modFla rfl rfl rfl) _

/-! ## Process.lean -/

theorem ForelineLaw.crossoverOn (c : Chamber) : ForelineLaw (crossoverOn c s) := by
  unfold Machine.crossoverOn
  refine law.ite (.ite ((law.of_foreline (by simp)).ite law) (.ite ?_ law))
  exact (law.faultChamber c _).ite ((law.faultChamber c _).ite (law.of_foreline (by simp)))

theorem ForelineLaw.enterCrossover (c : Chamber) : ForelineLaw (enterCrossover c s) := by
  unfold Machine.enterCrossover
  exact (law.close_and_leave (u := stopRoughTimer c s) (by simp) (by simp)).crossoverOn c

theorem ForelineLaw.startPumpdown (c : Chamber) : ForelineLaw (startPumpdown c s) := by
  unfold Machine.startPumpdown
  refine .ite (.ite (law.of_foreline (by simp)) ?_) ?_
  · exact (law.of_foreline (by simp)).enterCrossover c
  · exact (law.of_foreline (by simp)).requestForeline c

theorem ForelineLaw.startStep (c : Chamber) : ForelineLaw (startStep c s) := by
  unfold Machine.startStep
  split
  · exact law
  · refine .ite ((law.of_foreline (by simp)).faultChamber c _) ?_
    split
    · exact (law.of_foreline (by simp)).startPumpdown c
    · exact law.of_foreline (by simp)
    · exact .ite ((law.of_foreline (by simp)).enterAdmit c _) ((law.of_foreline (by simp)).faultChamber c _)

theorem ForelineLaw.handover (c : Chamber) (k : Kind) : ForelineLaw (handover c k s) :=
  (law.startStep c).ite ((law.of_foreline (by simp)).ite (law.enterReady c))

theorem ForelineLaw.endOk (c : Chamber) : ForelineLaw (endOk c s) := by
  unfold Machine.endOk
  split
  · exact law
  · exact (law.of_foreline (by simp)).handover c _

theorem ForelineLaw.enterStrike (c : Chamber) (r : StepRec) : ForelineLaw (enterStrike c r s) := by
  unfold Machine.enterStrike
  have entered : ForelineLaw (enterPhase c .strike (markBeforeStrike c s)) := law.of_foreline (by simp)
  exact (entered.faultChamber c _).ite ((entered.faultChamber c _).ite ((entered.faultChamber c _).ite
    (entered.of_foreline (by simp))))

theorem ForelineLaw.settled (c : Chamber) : ForelineLaw (settled c s) := by
  unfold Machine.settled
  split
  · exact law
  · exact (law.of_foreline (by simp)).ite ((law.of_foreline (by simp)).enterStrike c _)

theorem ForelineLaw.endpointReached (c : Chamber) : ForelineLaw (endpointReached c s) := by
  unfold Machine.endpointReached
  split
  · exact law
  · exact (law.of_foreline (by simp)).ite ((law.of_foreline (by simp)).endOk c)

theorem ForelineLaw.maskExpired (c : Chamber) : ForelineLaw (maskExpired c s) :=
  have expired : ForelineLaw (s.modExec c (fun e => { e with maskTimer := none, maskDone := true })) := law.of_foreline (by simp)
  (expired.endpointReached c).ite expired

theorem ForelineLaw.enterEtch (c : Chamber) (r : StepRec) : ForelineLaw (enterEtch c r s) := by
  unfold Machine.enterEtch
  dsimp only
  split
  · exact law.of_foreline (by simp)
  · exact ((law.of_foreline (by simp)).maskExpired c).ite (law.of_foreline (by simp))

theorem ForelineLaw.strikeConfirmed (c : Chamber) : ForelineLaw (strikeConfirmed c s) := by
  unfold Machine.strikeConfirmed
  split
  · exact law
  · exact (law.of_foreline (by simp)).ite ((law.of_foreline (by simp)).enterEtch c _)

theorem ForelineLaw.switchCycle (c : Chamber) (r : StepRec) (toB : Bool) : ForelineLaw (switchCycle c r toB s) := by
  unfold Machine.switchCycle
  exact (law.of_foreline (by simp)).withTargets c _ (by simp)

theorem ForelineLaw.cyclePhaseEnd (c : Chamber) : ForelineLaw (cyclePhaseEnd c s) := by
  unfold Machine.cyclePhaseEnd
  split
  · exact law
  · refine .ite (.ite ?_ ?_) ?_
    · exact (law.of_foreline (by simp)).endOk c
    · exact (law.of_foreline (by simp)).switchCycle c _ _
    · exact (law.of_foreline (by simp)).switchCycle c _ _

theorem ForelineLaw.settleTest (c : Chamber) (e : StepCtx) : ForelineLaw (settleTest c e s) :=
  .ite (law.ite ((law.settled c).ite (law.of_foreline (by simp)))) (law.of_foreline (by simp))

theorem ForelineLaw.pressureConditions (c : Chamber) (e : StepCtx) : ForelineLaw (pressureConditions c e s) := by
  unfold Machine.pressureConditions
  dsimp only
  split
  · exact (law.enterCrossover c).ite law
  · refine (law.enterCrossover c).ite ?_
    split
    · exact law
    · exact (law.enterSub c _).ite law
  · exact (law.enterCrossover c).ite law
  · exact (law.enterCrossover c).ite law
  · split
    · exact law
    · exact ((law.of_foreline (by simp)).endOk c).ite law
  · split
    · exact law
    · exact ((law.of_foreline (by simp)).endOk c).ite law
  · exact law.settleTest c e
  · exact law.of_foreline (by simp)
  · exact law.of_foreline (by simp)
  · exact law.of_foreline (by simp)
  · exact law.of_foreline (by simp)
  · exact law.of_foreline (by simp)
  · exact law

theorem ForelineLaw.evaluatePressure (c : Chamber) : ForelineLaw (evaluatePressure c s) := by
  unfold Machine.evaluatePressure
  have tracked : ForelineLaw (trackMinMax c (choosePressure c s)) := law.of_foreline (by simp)
  dsimp only
  split
  · exact tracked
  · exact (tracked.pressureConditions c _).ite tracked

theorem ForelineLaw.takeArc (c : Chamber) : ForelineLaw (takeArc c s) := by
  unfold Machine.takeArc
  split
  · exact law
  · exact .ite (.ite ((law.of_foreline (by simp)).faultChamber c _) (law.of_foreline (by simp))) law

theorem ForelineLaw.afterTravel (c : Chamber) : ForelineLaw (afterTravel c s) := by
  unfold Machine.afterTravel
  have timed : ForelineLaw (if (s.ch c).roughOpen then s else stopRoughTimer c s) := law.ite (law.of_foreline (by simp))
  exact ((((timed.openRough c).ite timed).of_foreline (forelineOf_ventIsolateOn c _)).crossoverOn c).handoverCheck

/-! ## Flow.lean, Instruments.lean -/

theorem ForelineLaw.deviationExpired (c : Chamber) (k : Channel) : ForelineLaw (deviationExpired c k s) :=
  .ite ((law.of_foreline (by simp)).faultChamber c _) (law.of_foreline (by simp))

theorem ForelineLaw.forelineFailed : ForelineLaw (forelineFailed s) := by
  unfold Machine.forelineFailed
  have unread : ForelineLaw (s.modFla (fun a => { a with pressure := none })) := law.modFla rfl rfl rfl
  have cleared : ForelineLaw (postForeline ((s.modFla (fun a => { a with pressure := none })).modFla
      (fun a => { a with pause := false }))) := (unread.modFla rfl rfl rfl).of_foreline (forelineOf_postForeline _)
  have told := cleared.ite (p := (s.modFla (fun a => { a with pressure := none })).fla.pause = true) unread
  dsimp only
  split
  · exact told.faultChamber _ _
  · exact told.yieldPumpout
  · exact told

theorem ForelineLaw.ownerReport (p : PollCfg) (old new : InstState) : ForelineLaw (ownerReport p old new s) := by
  unfold Machine.ownerReport
  split
  · exact .ite ((law.of_foreline (by simp)).faultChamber _ _) (law.of_foreline (by simp))
  · split
    · exact law.forelineFailed
    · exact law.blockCleared.ite law
    · exact law.forelineUnknown.blockCleared.ite law.forelineUnknown
  · exact law

theorem ForelineLaw.changeInst (e : EntryIx) (st : InstState) (reason : InstReason) : ForelineLaw (changeInst e st reason s) :=
  (law.of_foreline (by simp)).ownerReport _ _ _

theorem ForelineLaw.validReply (e : EntryIx) : ForelineLaw (validReply e s) :=
  have counted : ForelineLaw (s.modPoll e (fun x => { x with misses := 0 })) := law.of_foreline (by simp)
  counted.ite (counted.changeInst e _ _)

theorem ForelineLaw.missReply (e : EntryIx) : ForelineLaw (missReply e s) :=
  .ite (law.of_foreline (by simp)) (.ite (law.of_foreline (by simp)) ((law.of_foreline (by simp)).changeInst e _ _))

theorem ForelineLaw.takeSource (c : Chamber) (before : Bool) (f r : Nat) : ForelineLaw (takeSource c before f r s) := by
  unfold Machine.takeSource
  dsimp only
  split
  · exact law.of_foreline (by simp)
  · exact .ite ((law.of_foreline (by simp)).strikeConfirmed c) (law.of_foreline (by simp))

theorem ForelineLaw.routeReading (p : PollCfg) (before : Bool) (data : List Byte) : ForelineLaw (routeReading p before data s) := by
  unfold Machine.routeReading
  split
  · exact law.of_foreline (by simp)
  · exact (law.of_foreline (by simp)).evaluatePressure _
  · exact (law.of_foreline (by simp)).evaluatePressure _
  · exact law.of_foreline (by simp)
  · exact law.takeSource _ _ _ _
  · exact law.of_foreline (by simp)
  · exact law.takeForelineReading _
  · exact law

theorem ForelineLaw.takeReply (t : Txn) (bs : List Byte) : ForelineLaw (takeReply t bs s) := by
  unfold Machine.takeReply
  dsimp only
  split
  · exact law.missReply _
  · split
    · exact law.missReply _
    · exact (law.validReply _).routeReading _ _ _

theorem ForelineLaw.toUnknown (e : EntryIx) (reason : InstReason) : ForelineLaw (toUnknown e reason s) :=
  have counted : ForelineLaw (s.modPoll e (fun x => { x with misses := 0 })) := law.of_foreline (by simp)
  law.ite (counted.ite (counted.changeInst e _ _))

end

/-! ## The admission queue service, the end of a command (R90, R176) -/

theorem forelineLaw_servicePass (xs : List Chamber) {s : State} (law : ForelineLaw s) : ForelineLaw (servicePass xs s).1 := by
  induction xs generalizing s with
  | nil => exact law
  | cons c rest ih => exact ih (law.tryAdmit c)

theorem forelineLaw_serviceRuns (n : Nat) {s : State} (law : ForelineLaw s) : ForelineLaw (serviceRuns n s) := by
  induction n generalizing s with
  | zero => exact law
  | succ n ih =>
    have passed := forelineLaw_servicePass s.gat.queue law
    exact (ih passed).ite passed

section
variable {s : State} (law : ForelineLaw s)
include law

theorem ForelineLaw.runService : ForelineLaw (runService s) :=
  .ite ((law.ite (forelineLaw_serviceRuns 7 law)).of_foreline rfl) law

theorem ForelineLaw.finish : ForelineLaw (finish s) := law.runService.of_foreline rfl

end

end Sys2Proof.Machine
end

section
namespace Sys2Proof.Machine

open Host (Outcome)

/-! # The foreline law under the inputs, the notices and the resets (R58, R74, R158, R159) -/

/-- A table written at every place of a list of places. -/
theorem look_foldl_put {α : Type} {n : Nat} (f : Fin n → α) (xs : List (Fin n)) (t : Table α n) (i : Fin n) :
    (xs.foldl (fun u j => u.put j (f j)) t).look i = if i ∈ xs then f i else t.look i := by
  induction xs generalizing t with
  | nil => rfl
  | cons j rest ih =>
    rw [List.foldl_cons, ih]
    by_cases e : j = i
    · subst e; simp
    · simp [e, Ne.symm e]

theorem look_foldl_put_all {α : Type} {n : Nat} (f : Fin n → α) (t : Table α n) (i : Fin n) :
    ((allIx n).foldl (fun u j => u.put j (f j)) t).look i = f i := by
  rw [look_foldl_put, if_pos (List.mem_finRange i)]

section
variable {s : State} (law : ForelineLaw s)
include law

/-! ## Output forcing (R158) -/

/-- A change of every valve that commands none open and engages none. -/
theorem ForelineLaw.mapValves {f : Nat → Valve → Valve} (cmd : ∀ n v, (f n v).cmd = true → v.cmd = true)
    (engaged : ∀ n v, (f n v).engaged = true → v.engaged = true) : ForelineLaw (mapValves f s) := by
  unfold Machine.mapValves
  generalize hu : (allIx 6).foldl _ s = u
  have rough : ForelineLaw u := by
    subst hu
    refine forelineLaw_foldl (fun u c law => law.modCh c (fun h => ?_) (fun h => ?_)) law _
    · simp only [Csq.roughCmd, Bool.or_eq_true] at h ⊢
      exact h.imp (cmd _ _) (cmd _ _)
    · simp only [Csq.roughOpen, Csq.roughEngaged, Bool.or_eq_true] at h ⊢
      exact h.imp (fun o => engaged _ _ (Valve.engaged_iff.2 (.inr o))) (fun o => engaged _ _ (Valve.engaged_iff.2 (.inr o)))
  refine rough.mono rfl rfl (fun _ => id) (fun _ h => Csq.roughEngaged_iff.2 (.inr h)) (fun l h => ?_) (fun l h => ?_)
  · dsimp only [State.modFla_fla] at h
    rw [look_foldl_put_all (fun l => f u.cfg.pumpTravel (u.fla.pumps.look l))] at h
    exact cmd _ _ h
  · dsimp only [State.modFla_fla] at h
    rw [look_foldl_put_all (fun l => f u.cfg.pumpTravel (u.fla.pumps.look l))] at h
    exact engaged _ _ (Valve.engaged_iff.2 (.inr h))

theorem ForelineLaw.beginForcing : ForelineLaw (beginForcing s) :=
  (law.of_foreline (t := s.modIiu (fun u => { u with forcing := true })) rfl).mapValves (fun _ _ => id)
    (fun _ _ => Valve.force_engaged)

/-- An output follows its command again: what then opens was commanded open (R158). -/
theorem ForelineLaw.endForcing : ForelineLaw (endForcing s) := by
  refine (law.of_foreline (t := s.modIiu (fun u => { u with forcing := false })) rfl).mapValves (fun n v h => ?_)
    (fun _ _ => Valve.unforce_engaged)
  unfold Valve.unforce at h
  split at h <;> assumption

theorem ForelineLaw.qualify (i : Input) (l : Bool) : ForelineLaw (qualify i l s) := law.of_foreline (by simp)

theorem ForelineLaw.assertEmo : ForelineLaw (assertEmo s) := by
  unfold Machine.assertEmo
  have raised : ForelineLaw (s.modInp .emo (fun x => { x with raw := true, timer := none })) := law.of_foreline rfl
  exact raised.ite ((raised.ite raised.beginForcing).qualify _ _)

theorem ForelineLaw.rawChange (i : Input) (l : Bool) : ForelineLaw (rawChange i l s) :=
  law.ite (law.assertEmo.ite (law.of_foreline rfl))

theorem ForelineLaw.qualifyExpired (i : Input) : ForelineLaw (qualifyExpired i s) := (law.endForcing.ite law).qualify _ _

theorem ForelineLaw.arcRise (c : Chamber) : ForelineLaw (arcRise c s) :=
  .ite (law.of_foreline (by simp)) ((law.of_foreline (by simp)).takeArc c)

/-! ## Notices (R159) -/

theorem ForelineLaw.csqNotice (c : Chamber) (i : Input) (l : Bool) : ForelineLaw (csqNotice c i l s) := by
  unfold Machine.csqNotice
  dsimp only
  split
  · exact law.faultChamber c _
  · exact (law.faultChamber c _).ite law
  · exact (law.faultChamber c _).ite law
  · exact (law.faultChamber c _).ite law
  · exact (law.faultChamber c _).ite law
  · split
    · exact law
    · exact (law.endpointReached c).ite law
  · exact law

theorem ForelineLaw.flaNotice (i : Input) (l : Bool) : ForelineLaw (flaNotice i l s) := by
  unfold Machine.flaNotice
  split
  · exact law.yieldPumpout
  · exact law.blockCleared
  · exact law.yieldPumpout
  · exact law.blockCleared
  · exact law

theorem ForelineLaw.cabinetDrop (n : Cabinet) : ForelineLaw (cabinetDrop n s) :=
  forelineLaw_foldl (fun _ l law => (law.lockOut l _).ite law) law _

theorem ForelineLaw.gatNotice (i : Input) (l : Bool) : ForelineLaw (gatNotice i l s) := by
  unfold Machine.gatNotice
  split
  · exact law.of_foreline rfl
  · exact law.cabinetDrop _
  · exact law

theorem ForelineLaw.takeNotice (n : Notice) : ForelineLaw (takeNotice n s) := by
  unfold Machine.takeNotice
  split
  · exact law.csqNotice _ _ _
  · exact law.flaNotice _ _
  · exact law.gatNotice _ _
  · exact law

/-! ## Configuration and chamber requests -/

theorem ForelineLaw.writeLine (l : Line) (r : LineCfg) : ForelineLaw (writeLine l r s) := by
  unfold Machine.writeLine lineAfterWrite
  split <;> exact law.of_foreline (by simp)

theorem ForelineLaw.writeParams (c : Chamber) (p : ChamberParams) : ForelineLaw (writeParams c p s) := by
  have written : ForelineLaw (s.modCfg (fun g => { g with chambers := g.chambers.put c p })) := law.of_foreline rfl
  exact forelineLaw_foldl (fun _ k law => (law.deviationExpired c k).ite law) ((written.faultChamber c _).ite written) _

theorem ForelineLaw.writePoll (e : EntryIx) (p : PollCfg) : ForelineLaw (writePoll e p s) :=
  .ite ((law.of_foreline (by simp)).ownerReport _ _ _) (law.of_foreline (by simp))

/-- Every entry made UNKNOWN after a change of its schedule (R143). -/
theorem ForelineLaw.allUnknown (g : State → EntryIx → PollDyn → PollDyn) (reason : InstReason) :
    ForelineLaw ((allIx 96).foldl (fun u e => Machine.toUnknown e reason (u.modPoll e (g u e))) s) :=
  forelineLaw_foldl (fun _ e law => (law.of_foreline (by simp)).toUnknown e reason) law _

theorem ForelineLaw.enablePolling (budget window : Nat) : ForelineLaw (enablePolling budget window s) := by
  unfold Machine.enablePolling
  have enabled : ForelineLaw (s.modCfg (fun g => { g with enabled := true, budget := budget, window := window })) :=
    law.of_foreline rfl
  exact (enabled.allUnknown (fun u e => PollDyn.fresh e (u.cfg.poll.look e)) .enable).of_foreline (by simp)

theorem ForelineLaw.disablePolling : ForelineLaw (disablePolling s) := by
  unfold Machine.disablePolling
  refine ForelineLaw.allUnknown (s := (s.modCfg (fun g => { g with enabled := false })).modIlc (fun i =>
    { i with urgent := [], frameRest := [], inFlight := none })) ?_ (fun _ _ x => { x with due := false }) .disable
  exact law.of_foreline rfl

theorem ForelineLaw.bringOnline (c : Chamber) : ForelineLaw (bringOnline c s) := by
  unfold Machine.bringOnline
  have online : ForelineLaw (s.modCh c (fun q => { q with state := .ready, phase := .none, vac := .unknown, cause := none })) :=
    law.of_foreline (by simp)
  exact (forelineLaw_foldl (f := fun u k => u.modChan c k (fun x => { x with lastTime := none }))
    (fun _ _ law => law.of_foreline rfl) online (allIx 8)).of_foreline (by simp)

theorem ForelineLaw.takeOffline (c : Chamber) : ForelineLaw (takeOffline c s) := by
  unfold Machine.takeOffline
  exact (law.closeRough c).of_foreline (by simp)

theorem ForelineLaw.loadStep (c : Chamber) (r : StepRec) : ForelineLaw (loadStep c r s) := by
  unfold Machine.loadStep
  exact .ite (law.of_foreline (by simp)) ((law.of_foreline (by simp)).startStep c)

theorem ForelineLaw.suspendRoughing (c : Chamber) : ForelineLaw (suspendRoughing c s) := by
  unfold Machine.suspendRoughing
  exact law.close_and_leave (u := s.modExec c (fun e => { e with paused := none })) (by simp) (by simp)

theorem ForelineLaw.resumeRoughing (c : Chamber) : ForelineLaw (resumeRoughing c s) :=
  (law.enterCrossover c).ite (law.requestForeline c)

theorem ForelineLaw.clearFault (c : Chamber) : ForelineLaw (clearFault c s) := law.of_foreline (by simp [Machine.clearFault])

/-! ## Line requests and the arbiter's messages -/

theorem ForelineLaw.listLine (l : Line) : ForelineLaw (listLine l s) :=
  .ite (law.of_foreline rfl) ((law.takeListing l).takeAllPumpMsgs l)

theorem ForelineLaw.listingBehind (l : Line) : ForelineLaw (listingBehind l s) :=
  .ite ((law.of_foreline (t := takeOffFla l s) rfl).takeListing l) law

theorem ForelineLaw.takeMsg (m : PumpMsg) (l : Line) : ForelineLaw (takeMsg m l s) :=
  .ite ((law.modFla rfl rfl rfl).of_foreline (forelineOf_takePumpMsg l _ m)) law

end

/-! ## Resets (R24, R74, R97, R154) -/

/-- The arbiter lets go of the foreline with every pump valve commanded closed; the chambers' rough valves are closed already (R74). -/
theorem forelineLaw_resetFla {s : State} (closed : ∀ c : Chamber, (s.ch c).roughCmd = false) : ForelineLaw (resetFla s) := by
  unfold Machine.resetFla
  dsimp only
  generalize hu : s.modFla _ = u
  have reset : AllClosed u ∧ u.fla.holder = none := by
    subst hu
    refine ⟨⟨closed, fun l => ?_⟩, rfl⟩
    dsimp only [State.modFla_fla]
    rw [look_foldl_put_all (fun l => (s.fla.pumps.look l).commandClose s.now s.cfg.pumpTravel)]
    rfl
  split
  · exact .of_shut ⟨reset.1.rough, reset.1.pump⟩ (.inr rfl) (fun _ => reset.2) (by simp) (by simp)
  · rename_i shut
    exact Undecided.grantDecision ⟨reset.1, Bool.eq_false_iff.2 shut⟩

/-- A reset of the chambers leaves every rough valve commanded closed, whatever stood before (R24). -/
theorem roughCmd_softReset (xs : List Chamber) {s : State} {c : Chamber} (h : (s.ch c).roughCmd = false ∨ c ∈ xs) :
    ((xs.foldl (fun u d => u.modCh d (Csq.softReset u.now (u.cfg.chambers.look d))) s).ch c).roughCmd = false := by
  induction xs generalizing s with
  | nil => exact h.resolve_right List.not_mem_nil
  | cons d rest ih =>
    refine ih ?_
    by_cases e : d = c
    · subst e
      exact .inl (by simp [Csq.softReset, Csq.roughCmd, Valve.commandClose])
    · simpa [e, Ne.symm e] using h

/-- The gas table's reset reaches of the foreline only its messages (R97). -/
theorem resetGat_foreline (s : State) : (resetGat s).csq = s.csq ∧ (resetGat s).fla = { s.fla with toGat := [] } := by
  have lines : ∀ (xs : List Line) (f : Line → LineDyn → LineDyn) (u : State),
      (xs.foldl (fun u l => u.modLine l (f l)) u).csq = u.csq ∧ (xs.foldl (fun u l => u.modLine l (f l)) u).fla = u.fla := by
    intro xs f
    induction xs with
    | nil => exact fun _ => ⟨rfl, rfl⟩
    | cons l rest ih => exact fun u => ih (u.modLine l (f l))
  unfold resetGat
  dsimp only
  generalize hv : (allIx 12).foldl (fun (u : State) l => u.modLine l _) s = v
  obtain ⟨csq, fla⟩ : v.csq = s.csq ∧ v.fla = s.fla := hv ▸ lines _ _ s
  exact ⟨csq, by rw [State.modFla_fla, State.modGat_fla, fla]⟩

/-- The Instrument Link's reset reaches no other block (R154). -/
theorem linkOnly_resetIlc (s : State) : LinkOnly s (resetIlc s) := by
  unfold resetIlc
  have cleared : LinkOnly s (((allIx 96).foldl (fun u e =>
      u.modPoll e (PollDyn.softReset e (u.cfg.poll.look e) u.cfg.enabled)) s).modIlc (fun i =>
        { i with urgent := [], frameRest := [], inFlight := none })) :=
    linkOnly_modIlc (linkOnly_foldl _ (fun _ _ link => linkOnly_modPoll link) (LinkOnly.refl s))
  dsimp only
  split
  · exact linkOnly_beginFrame cleared
  · exact cleared

/-- The law stands after a soft reset, whatever stood before (R24, R74). -/
theorem forelineLaw_softReset (s : State) : ForelineLaw (softReset s) := by
  unfold softReset
  dsimp only
  generalize hu : (allIx 6).foldl (fun (u : State) d => u.modCh d (Csq.softReset u.now (u.cfg.chambers.look d))) _ = u
  have closed (c : Chamber) : (u.ch c).roughCmd = false := hu ▸ roughCmd_softReset (allIx 6) (.inr (List.mem_finRange c))
  refine forelineLaw_resetFla (fun c => ?_)
  have same : (resetIlc (resetGat (resetChannels u))).csq = u.csq :=
    (linkOnly_resetIlc _).csq.trans (resetGat_foreline (resetChannels u)).1
  exact (congrArg Csq.roughCmd (ch_of_csq c u same)).trans (closed c)

/-- The law stands at a full reset (R23, R73). -/
theorem forelineLaw_resetWith (pins : Table Bool 26) (arc : Table Bool 6) (pending : List Instr) :
    ForelineLaw (State.resetWith pins arc pending) := by
  refine .of_shut ⟨fun c => ?_, fun l => ?_⟩ (.inl (forelineValveOpen_eq_false.2 ⟨fun c => ?_, fun l => ?_⟩)) (fun _ => rfl)
    (fun h => nomatch h) (fun h => nomatch h)
  · simp [State.resetWith, State.ch, Csq.reset, Csq.roughCmd, Valve.reset]
  · simp [State.resetWith, Fla.reset, Valve.reset]
  · simp [State.resetWith, State.ch, Csq.reset, Csq.roughOpen, Valve.reset, Valve.countsOpen]
  · simp [State.resetWith, Fla.reset, Valve.reset, Valve.countsOpen]

end Sys2Proof.Machine
end

section
namespace Sys2Proof.Machine

open Host (Outcome)

/-! # The foreline law under every command (R58) -/

/-- The outcome of a command, if it is a next state, obeys the foreline law. -/
def EndsLawful (o : Outcome State Fault Refusal) : Prop := ∀ t, o = .next t → ForelineLaw t

section
variable {s : State} (law : ForelineLaw s)
include law

theorem ForelineLaw.ends : EndsLawful (.next (Machine.finish s)) := fun t e => by
  injection e with e
  exact e ▸ law.finish

/-- A request row keeps the law if its owner's answer does. -/
theorem ForelineLaw.request (k : ReqKind) (mine : List Byte → Bool) {act : List Byte → State → Answer}
    (ha : ∀ {u}, ForelineLaw u → ∀ body, ForelineLaw (act body u).1) :
    EndsLawful (.next (Machine.finish (request k mine act s))) := by
  refine ForelineLaw.ends ?_
  unfold Machine.request
  split
  · exact law
  · refine ForelineLaw.ite ?_ law
    unfold handle
    have popped : ForelineLaw (popFrame s) := law.of_foreline rfl
    have answer (f : Frame) : ForelineLaw (if lengthFits k f.body then act f.body (popFrame s) else refuse .badLength (popFrame s)).1 := by
      split
      · exact ha popped _
      · exact popped
    exact (answer _).of_foreline rfl

theorem ForelineLaw.tested (tests : List (Bool × Nak)) {yes : Answer} (h : ForelineLaw yes.1) :
    ForelineLaw (tested tests s yes).1 := by
  unfold Machine.tested
  split
  · exact law
  · exact h

/-- A request that is accepted once its tests pass. -/
theorem ForelineLaw.accepted (tests : List (Bool × Nak)) (a : List Byte) {t : State} (h : ForelineLaw t) :
    ForelineLaw (Machine.tested tests s (accept a t)).1 := law.tested tests h

theorem ForelineLaw.onChamber (body : List Byte) {act : Chamber → Answer} (h : ∀ c, ForelineLaw (act c).1) :
    ForelineLaw (onChamber body s act).1 := by
  unfold Machine.onChamber
  split
  · exact law
  · exact h _

theorem ForelineLaw.onLine (op : Nat) (body : List Byte) {act : Line → Answer} (h : ∀ l, ForelineLaw (act l).1) :
    ForelineLaw (onLine op body s act).1 := by
  unfold Machine.onLine
  split
  · exact law
  · exact law.tested _ (h _)

/-! ## The owners' answers -/

variable (body : List Byte)

theorem ForelineLaw.actCfgln : ForelineLaw (actCfgln body s).1 := by
  unfold Machine.actCfgln
  split
  · exact law
  · split
    · exact law
    · exact law.accepted _ _ (law.writeLine _ _)

theorem ForelineLaw.actCfgcx : ForelineLaw (actCfgcx body s).1 := by
  unfold Machine.actCfgcx
  split
  · exact law.accepted _ _ (law.of_foreline rfl)
  · exact law

theorem ForelineLaw.actCfgch : ForelineLaw (actCfgch body s).1 :=
  law.onChamber body (fun c => law.accepted _ _ (law.writeParams c _))

theorem ForelineLaw.actCfgmap : ForelineLaw (actCfgmap body s).1 := by
  unfold Machine.actCfgmap
  split
  · exact law.accepted _ _ (law.of_foreline rfl)
  · exact law

theorem ForelineLaw.actCfgpt : ForelineLaw (actCfgpt body s).1 := by
  unfold Machine.actCfgpt
  split
  · exact law
  · exact law.accepted _ _ (law.writePoll _ _)

theorem ForelineLaw.actCfgfl : ForelineLaw (actCfgfl body s).1 := by
  unfold Machine.actCfgfl
  split
  · exact law
  · exact law.accepted _ _ (law.of_foreline rfl)

theorem ForelineLaw.actCfgiq : ForelineLaw (actCfgiq body s).1 := law.accepted _ _ (law.of_foreline rfl)
theorem ForelineLaw.actPtenEnable : ForelineLaw (actPtenEnable body s).1 := law.accepted _ _ (law.enablePolling _ _)
theorem ForelineLaw.actPtenDisable : ForelineLaw (actPtenDisable body s).1 := law.accepted _ _ law.disablePolling

theorem ForelineLaw.actOnln : ForelineLaw (actOnln body s).1 :=
  law.onChamber body (fun c => law.accepted _ _ (law.bringOnline c))
theorem ForelineLaw.actOffln : ForelineLaw (actOffln body s).1 :=
  law.onChamber body (fun c => law.accepted _ _ (law.takeOffline c))

theorem ForelineLaw.judgeStep (c : Chamber) : ForelineLaw (judgeStep c body s).1 := by
  unfold Machine.judgeStep
  split
  · exact law
  · split
    · exact law
    · exact law.loadStep c _

theorem ForelineLaw.actStep : ForelineLaw (actStep body s).1 := by
  unfold Machine.actStep
  split
  · exact law
  · exact law.onChamber body (fun c => law.tested _ (law.judgeStep body c))

theorem ForelineLaw.actAbrt : ForelineLaw (actAbrt body s).1 := by
  unfold Machine.actAbrt
  refine law.onChamber body (fun c => ?_)
  split
  · simpa only [accept] using law.abortStep c
  · simpa only [accept] using law.enterReady c
  · exact law

theorem ForelineLaw.actRsus : ForelineLaw (actRsus body s).1 := by
  unfold Machine.actRsus
  refine law.onChamber body (fun c => ?_)
  split
  · exact law
  · split
    · exact law.suspendRoughing c
    · exact law

theorem ForelineLaw.actRres : ForelineLaw (actRres body s).1 := by
  unfold Machine.actRres
  refine law.onChamber body (fun c => ?_)
  split
  · exact law
  · split
    · exact law.resumeRoughing c
    · exact law

theorem ForelineLaw.actClrf : ForelineLaw (actClrf body s).1 :=
  law.onChamber body (fun c => law.accepted _ _ (law.clearFault c))

theorem ForelineLaw.actRpt : ForelineLaw (actRpt body s).1 := by
  unfold Machine.actRpt
  refine law.onChamber body (fun c => ?_)
  split
  · exact law
  · exact law.of_foreline (forelineOf_modCh s c rfl rfl)

theorem ForelineLaw.actLinePumpout : ForelineLaw (actLinePumpout body s).1 := by
  unfold Machine.actLinePumpout
  refine law.onLine 0 body (fun l => ?_)
  split
  · exact law
  · exact (law.of_foreline (forelineOf_setLineState l s _ _)).listLine l

theorem ForelineLaw.actLineLockout : ForelineLaw (actLineLockout body s).1 :=
  law.onLine 1 body (fun l => law.accepted _ _ (law.lockOut l _))

theorem ForelineLaw.actLineUnlock : ForelineLaw (actLineUnlock body s).1 :=
  law.onLine 2 body (fun l => law.accepted _ _ (law.of_foreline (by simp)))

theorem ForelineLaw.actTotl : ForelineLaw (actTotl body s).1 := by
  unfold Machine.actTotl
  split <;> exact law

theorem ForelineLaw.actStat : ForelineLaw (actStat body s).1 := by
  unfold Machine.actStat
  dsimp only
  split
  · exact law
  · exact law.of_foreline (forelineOf_modSvl s _)

theorem ForelineLaw.actCfglk : ForelineLaw (actCfglk body s).1 := by
  unfold Machine.actCfglk
  split
  · exact law
  · split
    · exact law.of_foreline (forelineOf_modCfg s _)
    · exact law

theorem ForelineLaw.actMark : ForelineLaw (actMark body s).1 := by
  unfold Machine.actMark
  split
  · exact law.of_foreline (forelineOf_modSvl s _)
  · exact law.of_foreline (forelineOf_post s _)

end

/-! ## Inputs, timers, pump-outs, the Instrument Link -/

/-- A travel that ends opens no valve (R20). -/
theorem Valve.expire_countsOpen {v : Valve} : v.expire.countsOpen = true → v.countsOpen = true := by
  rcases v with ⟨_, _ | _ | _ | _⟩ <;> simp [Valve.expire, Valve.countsOpen]

theorem Csq.expire_roughCmd (q : Csq) (v : ChamberValve) : (q.setValve v (q.valve v).expire).roughCmd = q.roughCmd := by
  cases v <;> simp [Csq.roughCmd, Csq.setValve, Csq.valve, Valve.expire]

theorem Csq.expire_roughOpen {q : Csq} {v : ChamberValve} :
    (q.setValve v (q.valve v).expire).roughOpen = true → q.roughOpen = true := by
  unfold Csq.roughOpen
  rw [Bool.or_eq_true, Bool.or_eq_true]
  cases v with
  | gate => exact id
  | roughSoft => exact Or.imp_left Valve.expire_countsOpen
  | roughFast => exact Or.imp_right Valve.expire_countsOpen
  | vent => exact id

theorem completedLine_holder {s : State} {l : Line} (h : completedLine s = some l) : s.fla.holder = some (.line l) := by
  unfold completedLine at h
  split at h
  · split at h
    · split at h
      · simp_all
      · cases h
    · cases h
  · cases h

theorem execFullReset_endsLawful (s : State) : EndsLawful (execFullReset s) := by
  have reset : ForelineLaw ((State.resetWith (rawPins s) s.iiu.arcRaw s.pending).modIlc (fun i => { i with built := s.ilc.built })) :=
    (forelineLaw_resetWith (rawPins s) s.iiu.arcRaw s.pending).of_foreline (forelineOf_modIlc _ _)
  exact (reset.assertEmo.ite reset).ends

section
variable {s : State} (law : ForelineLaw s)
include law

theorem execUnknownKindFrame_endsLawful : EndsLawful (execUnknownKindFrame s) := by
  unfold execUnknownKindFrame
  refine ForelineLaw.ends ?_
  split
  · exact law
  · exact .ite (law.of_foreline rfl) law

theorem execRawInputChange_endsLawful (p : Pin) (level : Bool) : EndsLawful (execRawInputChange p level s) := by
  unfold execRawInputChange
  refine ForelineLaw.ends ?_
  split
  · exact law.rawChange _ _
  · exact law.of_foreline rfl
  · exact law.ite (law.arcRise _)

theorem execQualifiedChangeNotice_endsLawful (o : NoticeOwner) (i : Input) : EndsLawful (execQualifiedChangeNotice o i s) := by
  unfold execQualifiedChangeNotice
  refine ForelineLaw.ends ?_
  split
  · exact law
  · exact (law.of_foreline (forelineOf_modIiu s _)).takeNotice _

theorem execValveTravelExpiry_endsLawful (c : Chamber) (v : ChamberValve) : EndsLawful (execValveTravelExpiry c v s) := by
  have moved : ForelineLaw (s.modCh c (fun q => q.setValve v (q.valve v).expire)) :=
    law.modCh c (fun h => Csq.expire_roughCmd _ v ▸ h) (fun h => Csq.roughEngaged_iff.2 (.inr (Csq.expire_roughOpen h)))
  exact ((moved.afterTravel c).ite law).ends

theorem execLinePumpValveTravelExpiry_endsLawful (l : Line) : EndsLawful (execLinePumpValveTravelExpiry l s) := by
  have expired : ForelineLaw (modPump l Valve.expire s) := law.modPump l (fun _ => id) (fun _ => Valve.expire_countsOpen)
  exact (expired.handoverCheck.ite law).ends

theorem ForelineLaw.endPurge (c : Chamber) : ForelineLaw (endPurge c s) := by
  unfold Machine.endPurge
  split
  · exact law
  · exact (law.of_foreline (by simp)).enterWork c _

theorem ForelineLaw.durationEnd (c : Chamber) : ForelineLaw (durationEnd c s) := by
  unfold Machine.durationEnd
  split
  · exact law.endOk c
  · exact law.endOk c
  · exact (law.faultChamber c _).ite (law.endOk c)
  · exact law

theorem execPumpoutCompletion_endsLawful : EndsLawful (execPumpoutCompletion s) := by
  unfold execPumpoutCompletion
  refine ForelineLaw.ends ?_
  split
  · exact law
  · rename_i l h
    exact law.completePumpout (completedLine_holder h)

theorem execInstrumentReply_endsLawful (reply : BusReply) : EndsLawful (execInstrumentReply reply s) := by
  unfold execInstrumentReply
  refine ForelineLaw.ends ?_
  split
  · exact law
  · exact law.ite ((law.takeReply _ _).runService.of_foreline (forelineOf_endTxn _))

theorem execResponseWindowExpiry_endsLawful : EndsLawful (execResponseWindowExpiry s) := by
  unfold execResponseWindowExpiry
  refine ForelineLaw.ends ?_
  split
  · exact law
  · exact (law.ite (law.missReply _).runService).of_foreline (forelineOf_endTxn _)

/-- Every command keeps the law. -/
theorem exec_endsLawful (i : Instr) : EndsLawful (exec i s) :=
  match i with
  | .fullReset => execFullReset_endsLawful s
  | .frameReceived _ => (ForelineLaw.ite (law.of_foreline (forelineOf_modSvl s _)) law).ends
  | .interbyteGapExpiry => (ForelineLaw.ite (law.of_foreline (forelineOf_modSvl s _)) law).ends
  | .unknownKindFrame => execUnknownKindFrame_endsLawful law
  | .transmitFrameEnd => (law.of_foreline (forelineOf_modSvl s _)).ends
  | .ident => law.request .ident anyBody (fun h _ => h)
  | .stat => law.request .stat anyBody ForelineLaw.actStat
  | .cfgln => law.request .cfgln anyBody ForelineLaw.actCfgln
  | .cfgcx => law.request .cfgcx anyBody ForelineLaw.actCfgcx
  | .cfgch => law.request .cfgch anyBody ForelineLaw.actCfgch
  | .cfgmap => law.request .cfgmap anyBody ForelineLaw.actCfgmap
  | .cfgpt => law.request .cfgpt anyBody ForelineLaw.actCfgpt
  | .cfgfl => law.request .cfgfl anyBody ForelineLaw.actCfgfl
  | .cfgiq => law.request .cfgiq anyBody ForelineLaw.actCfgiq
  | .cfglk => law.request .cfglk anyBody ForelineLaw.actCfglk
  | .rdcfg => law.request .rdcfg anyBody (fun h _ => h)
  | .ptenEnable => law.request .pten (ptenRow 0) ForelineLaw.actPtenEnable
  | .ptenDisable => law.request .pten (ptenRow 1) ForelineLaw.actPtenDisable
  | .onln => law.request .onln anyBody ForelineLaw.actOnln
  | .offln => law.request .offln anyBody ForelineLaw.actOffln
  | .step => law.request .step anyBody ForelineLaw.actStep
  | .abrt => law.request .abrt anyBody ForelineLaw.actAbrt
  | .rsus => law.request .rsus anyBody ForelineLaw.actRsus
  | .rres => law.request .rres anyBody ForelineLaw.actRres
  | .clrf => law.request .clrf anyBody ForelineLaw.actClrf
  | .linePumpout => law.request .line (lineRow 0) ForelineLaw.actLinePumpout
  | .lineLockout => law.request .line (lineRow 1) ForelineLaw.actLineLockout
  | .lineUnlock => law.request .line (lineRow 2) ForelineLaw.actLineUnlock
  | .rpt => law.request .rpt anyBody ForelineLaw.actRpt
  | .totl => law.request .totl anyBody ForelineLaw.actTotl
  | .evmsk => law.request .evmsk anyBody (fun h _ => h.of_foreline rfl)
  | .mark => law.request .mark anyBody ForelineLaw.actMark
  | .rset => law.request .rset anyBody (fun _ _ => forelineLaw_softReset _)
  | .rawInputChange p level => execRawInputChange_endsLawful law p level
  | .emoAssertion => (law.ite law.assertEmo).ends
  | .qualificationExpiry i => ((law.qualifyExpired i).ite law).ends
  | .qualifiedChangeNotice o i => execQualifiedChangeNotice_endsLawful law o i
  | .arcEdge c => (law.arcRise c).ends
  | .arcMergeExpiry _ => (ForelineLaw.ite (law.of_foreline (forelineOf_modIiu s _)) law).ends
  | .valveTravelExpiry c v => execValveTravelExpiry_endsLawful law c v
  | .linePumpValveTravelExpiry l => execLinePumpValveTravelExpiry_endsLawful law l
  | .holdExpiry c => ((law.enterReady c).ite law).ends
  | .roughTimerExpiry c => ((law.faultChamber c _).ite law).ends
  | .baseTimerExpiry c => ((law.faultChamber c _).ite law).ends
  | .ventTimerExpiry c => ((law.faultChamber c _).ite law).ends
  | .admitTimerExpiry c => (((law.of_foreline (forelineOf_modExec s c _)).faultChamber c _).ite law).ends
  | .purgeTimerExpiry c => ((law.endPurge c).ite law).ends
  | .settleTimerExpiry c => ((law.settled c).ite law).ends
  | .settleLimitExpiry c => ((law.faultChamber c _).ite law).ends
  | .durationExpiry c => ((law.durationEnd c).ite law).ends
  | .excursionExpiry c => ((law.faultChamber c _).ite law).ends
  | .strikeTimerExpiry c => ((law.faultChamber c _).ite law).ends
  | .maskExpiry c => ((law.maskExpired c).ite law).ends
  | .overetchExpiry c => ((law.endOk c).ite law).ends
  | .cyclePhaseExpiry c => ((law.cyclePhaseEnd c).ite law).ends
  | .deviationExpiry c k => ((law.deviationExpired c k).ite law).ends
  | .pumpoutCompletion => execPumpoutCompletion_endsLawful law
  | .removalMessage l => ((((law.of_foreline (t := takeOffFla l s) rfl).takeRemoval l).listingBehind l).ite law).ends
  | .begunMessage l => (law.takeMsg .begun l).ends
  | .stoppedMessage l => (law.takeMsg .stopped l).ends
  | .completeMessage l => (law.takeMsg .complete l).ends
  | .instrumentFrameBegin => (ForelineLaw.ite (law.of_foreline (forelineOf_beginFrame s)) law).ends
  | .instrumentReply reply => execInstrumentReply_endsLawful law reply
  | .responseWindowExpiry => execResponseWindowExpiry_endsLawful law
  | .linkByteReceived _ => (law.of_foreline (forelineOf_modSvl s _)).ends

end

/-- Settles O8: the operations that reach the foreline keep the law, a grant or a release among them because every valve into the
foreline is commanded closed as it is decided (Undecided, AllClosed.vacate); the others leave the foreline as it is (forelineOf). -/
theorem forelineLawKept : Obligations.ForelineLawKept := by
  intro s t law h
  unfold step at h
  split at h
  · injection h with h
    exact h ▸ law.of_foreline rfl
  next i rest _ => exact exec_endsLawful (s := { s with pending := rest }) (law.of_foreline rfl) i t h

end Sys2Proof.Machine
end

section
namespace Sys2Proof.Machine

/-! # What a grant and a departure leave of the other blocks (R58, R61, R62) -/

/-- The arbiter's own work: it reaches chambers and the event queue, nothing else, and not the gauge's pressure and pause. -/
structure ArbiterOnly (s t : State) : Prop where
  fcu : t.fcu = s.fcu
  gat : t.gat = s.gat
  ilc : t.ilc = s.ilc
  iiu : t.iiu = s.iiu
  cfg : t.cfg = s.cfg
  now : t.now = s.now
  pause : t.fla.pause = s.fla.pause
  pressure : t.fla.pressure = s.fla.pressure

theorem ArbiterOnly.refl (s : State) : ArbiterOnly s s := ⟨rfl, rfl, rfl, rfl, rfl, rfl, rfl, rfl⟩

theorem ArbiterOnly.trans {s t u : State} (h : ArbiterOnly s t) (g : ArbiterOnly t u) : ArbiterOnly s u :=
  ⟨g.fcu.trans h.fcu, g.gat.trans h.gat, g.ilc.trans h.ilc, g.iiu.trans h.iiu, g.cfg.trans h.cfg, g.now.trans h.now,
    g.pause.trans h.pause, g.pressure.trans h.pressure⟩

theorem ArbiterOnly.served {s t : State} (h : ArbiterOnly s t) (served : Served s) : Served t :=
  (congrArg Gat.serviceDue h.gat).trans served

section
variable {σ τ : State} (only : ArbiterOnly σ τ)
include only

theorem arbiterOnly_modCh (c : Chamber) (f : Csq → Csq) : ArbiterOnly σ (τ.modCh c f) :=
  only.trans ⟨rfl, rfl, rfl, rfl, rfl, rfl, rfl, rfl⟩

theorem arbiterOnly_modExec (c : Chamber) (f : StepCtx → StepCtx) : ArbiterOnly σ (τ.modExec c f) := arbiterOnly_modCh only c _

theorem arbiterOnly_modFla {f : Fla → Fla} (pause : (f τ.fla).pause = τ.fla.pause)
    (pressure : (f τ.fla).pressure = τ.fla.pressure) : ArbiterOnly σ (τ.modFla f) :=
  only.trans ⟨rfl, rfl, rfl, rfl, rfl, rfl, pause, pressure⟩

theorem arbiterOnly_post (e : Event) : ArbiterOnly σ (post e τ) := only.trans (by constructor <;> simp)

theorem arbiterOnly_openRough (c : Chamber) : ArbiterOnly σ (openRough c τ) := by
  have driven (u : State) (v : ChamberValve) (h : ArbiterOnly σ u) : ArbiterOnly σ (driveOpen c v u) := arbiterOnly_modCh h c _
  have both : ArbiterOnly σ (driveRough c τ) := by
    unfold driveRough
    split
    · exact driven _ _ (driven _ _ only)
    · exact driven _ _ only
  rw [openRough_eq]
  split
  · split
    · exact arbiterOnly_modExec both c _
    · exact both
  · exact only

theorem arbiterOnly_enterPhase (c : Chamber) (p : Phase) : ArbiterOnly σ (enterPhase c p τ) :=
  arbiterOnly_post (arbiterOnly_modCh only c _) _

theorem arbiterOnly_takeGrant (c : Chamber) : ArbiterOnly σ (takeGrant c τ) := by
  unfold takeGrant
  split
  · exact only
  · split
    · exact arbiterOnly_enterPhase (arbiterOnly_modExec only c _) c _
    · exact arbiterOnly_openRough (arbiterOnly_enterPhase only c _) c

theorem arbiterOnly_toIdle : ArbiterOnly σ (toIdle τ) := by
  unfold toIdle
  split
  · exact only
  · exact arbiterOnly_post (arbiterOnly_modFla only rfl rfl) _

theorem arbiterOnly_grantChamber (c : Chamber) : ArbiterOnly σ (grantChamber c τ) :=
  arbiterOnly_takeGrant (arbiterOnly_post (arbiterOnly_modFla only rfl rfl) _) c

theorem arbiterOnly_beginLine (p : PumpEntry) (rest : List PumpEntry) : ArbiterOnly σ (beginLine p rest τ) :=
  arbiterOnly_post (arbiterOnly_modFla (arbiterOnly_modFla only rfl rfl) rfl rfl) _

theorem arbiterOnly_skipLine (p : PumpEntry) (rest : List PumpEntry) : ArbiterOnly σ (skipLine p rest τ) := by
  unfold skipLine sendGat
  exact arbiterOnly_modFla (arbiterOnly_modFla (arbiterOnly_beginLine only p rest) rfl rfl) rfl rfl

theorem arbiterOnly_openPump (l : Line) : ArbiterOnly σ (openPump l τ) := by
  unfold openPump
  split
  · exact arbiterOnly_modFla only rfl rfl
  · exact only

theorem arbiterOnly_runLine (p : PumpEntry) (rest : List PumpEntry) : ArbiterOnly σ (runLine p rest τ) :=
  arbiterOnly_openPump (arbiterOnly_modFla (arbiterOnly_beginLine only p rest) rfl rfl) p.line

theorem arbiterOnly_grantLines (ps : List PumpEntry) : ArbiterOnly σ (grantLines ps τ) := by
  induction ps generalizing τ with
  | nil => exact arbiterOnly_toIdle only
  | cons p rest ih =>
    rw [grantLines_cons]
    split
    · exact ih (arbiterOnly_skipLine only p rest)
    · split
      · exact arbiterOnly_beginLine only p rest
      · exact arbiterOnly_runLine only p rest

theorem arbiterOnly_grantDecision : ArbiterOnly σ (grantDecision τ) := by
  unfold grantDecision
  split
  · exact arbiterOnly_toIdle only
  · split
    · exact arbiterOnly_grantChamber only _
    · exact arbiterOnly_grantLines only _

theorem arbiterOnly_vacate : ArbiterOnly σ (vacate τ) := by
  unfold vacate
  dsimp only
  split
  · exact arbiterOnly_post (arbiterOnly_modFla (arbiterOnly_modFla only rfl rfl) rfl rfl) _
  · exact arbiterOnly_grantDecision (arbiterOnly_modFla only rfl rfl)

end

/-! # The grant decision (R62, R66, R68) -/

section
variable {s : State}

@[simp] theorem takeGrant_fla (c : Chamber) (s : State) : (takeGrant c s).fla = s.fla := by
  unfold takeGrant
  split
  · rfl
  · split
    · exact (chamberOnly_enterPhase (chamberOnly_modExec (ChamberOnly.refl c s)) _).fla
    · exact (chamberOnly_enterSub (ChamberOnly.refl c s) _).fla

theorem grantChamber_fla (c : Chamber) (s : State) : (grantChamber c s).fla =
    { s.fla with state := .heldChamber, holder := some (.chamber c), waiting := s.fla.waiting.put c false, progress := none } := by
  simp [grantChamber, postForeline]

theorem toIdle_fla (s : State) : (toIdle s).fla = s.fla ∧ s.fla.state = .idle ∧ s.fla.holder = none ∨
    (toIdle s).fla = { s.fla with state := .idle, holder := none, progress := none } := by
  unfold toIdle
  split
  · rename_i idle
    exact .inl ⟨rfl, idle⟩
  · exact .inr (by simp [postForeline])

theorem toIdle_idle (s : State) : (toIdle s).fla.state = .idle ∧ (toIdle s).fla.holder = none := by
  rcases toIdle_fla s with ⟨same, idle⟩ | h
  · rw [same]; exact idle
  · rw [h]; exact ⟨rfl, rfl⟩

theorem toIdle_lists (s : State) : (toIdle s).fla.list = s.fla.list ∧ (toIdle s).fla.pumps = s.fla.pumps ∧
    (toIdle s).fla.toGat = s.fla.toGat ∧ (toIdle s).fla.waiting = s.fla.waiting := by
  rcases toIdle_fla s with ⟨same, _⟩ | h
  · rw [same]; exact ⟨rfl, rfl, rfl, rfl⟩
  · rw [h]; exact ⟨rfl, rfl, rfl, rfl⟩

@[simp] theorem toIdle_csq (s : State) : (toIdle s).csq = s.csq := by
  unfold toIdle
  split
  · rfl
  · exact post_csq _ _

theorem grantDecision_blocked (h : grantBlocked s = true) : grantDecision s = toIdle s := if_pos h

theorem grantDecision_chamber {before after : List Chamber} {c : Chamber} (free : grantBlocked s = false)
    (chain : s.cfg.chain = before ++ c :: after) (none : ∀ d ∈ before, s.fla.waiting.look d = false)
    (waits : s.fla.waiting.look c = true) : grantDecision s = grantChamber c s := by
  have first : s.cfg.chain.find? (fun c => s.fla.waiting.look c) = some c := by
    rw [chain, List.find?_append, List.find?_eq_none.2 (by simpa using none), Option.none_or, List.find?_cons_of_pos waits]
  unfold grantDecision
  rw [free, first]
  rfl

theorem grantDecision_lines (free : grantBlocked s = false) (none : ∀ d ∈ s.cfg.chain, s.fla.waiting.look d = false) :
    grantDecision s = grantLines s.fla.list s := by
  unfold grantDecision
  rw [free, List.find?_eq_none.2 (by simpa using none)]
  rfl

/-! ## The lines of the list -/

variable (p : PumpEntry) (rest : List PumpEntry)

theorem beginLine_fla (s : State) : (beginLine p rest s).fla =
    { s.fla with
      state := .heldPumpout, holder := some (.line p.line), pumpMs := pumpTimeMs s p.line, progress := none, list := p :: rest
      toGat := s.fla.toGat ++ [(.begun, p.line)] } := by
  simp [beginLine, postForeline, sendGat]

theorem skipLine_fla (s : State) : (skipLine p rest s).fla =
    { s.fla with
      state := .heldPumpout, holder := none, pumpMs := pumpTimeMs s p.line, progress := none, list := rest
      toGat := s.fla.toGat ++ [(.begun, p.line), (.complete, p.line)] } := by
  simp [skipLine, sendGat, beginLine_fla]

theorem runLine_fla (s : State) : (runLine p rest s).fla =
    { s.fla with
      state := .heldPumpout, holder := some (.line p.line), pumpMs := pumpTimeMs s p.line, progress := some s.now, list := p :: rest
      toGat := s.fla.toGat ++ [(.begun, p.line)]
      pumps := s.fla.pumps.put p.line ((s.fla.pumps.look p.line).commandOpen s.now s.cfg.pumpTravel s.iiu.forcing) } := by
  have only := arbiterOnly_beginLine (ArbiterOnly.refl s) p rest
  have held : ((beginLine p rest s).modFla (fun a => { a with progress := some (beginLine p rest s).now })).fla.holder =
      some (.line p.line) := by simp [beginLine_fla]
  rw [runLine, openPump, if_pos held]
  simp [modPump, beginLine_fla, only.now, only.cfg, only.iiu]

/-- What the chambers and the waiting set keep while lines are granted the foreline. -/
structure LinesOnly (s t : State) : Prop where
  csq : t.csq = s.csq
  waiting : t.fla.waiting = s.fla.waiting

theorem linesOnly_beginLine (s : State) : LinesOnly s (beginLine p rest s) :=
  ⟨by simp [beginLine, postForeline, sendGat, State.modFla], by rw [beginLine_fla]⟩

theorem linesOnly_skipLine (s : State) : LinesOnly s (skipLine p rest s) :=
  ⟨(linesOnly_beginLine p rest s).csq, by rw [skipLine_fla]⟩

theorem linesOnly_runLine (s : State) : LinesOnly s (runLine p rest s) := by
  refine ⟨?_, by rw [runLine_fla]⟩
  unfold runLine openPump
  split <;> exact (linesOnly_beginLine p rest s).csq

theorem linesOnly_grantLines (ps : List PumpEntry) (s : State) : LinesOnly s (grantLines ps s) := by
  induction ps generalizing s with
  | nil => exact ⟨toIdle_csq s, (toIdle_lists s).2.2.2⟩
  | cons p rest ih =>
    rw [grantLines_cons]
    split
    · have skipped := linesOnly_skipLine p rest s
      exact ⟨(ih _).csq.trans skipped.csq, (ih _).waiting.trans skipped.waiting⟩
    · split
      · exact linesOnly_beginLine p rest s
      · exact linesOnly_runLine p rest s

end

/-- Settles O56: each branch of the decision is one lemma (grantDecision_chamber, _lines, _blocked), and the head of the list
begins, runs or is skipped (grantLines_cons). -/
theorem grantGoesToFirstInChain : Obligations.GrantGoesToFirstInChain := by
  refine ⟨fun s before after c free chain none waits => ?_, fun s p rest free none list => ?_, fun s h => ?_⟩
  · rw [grantDecision_chamber free chain none waits, grantChamber_fla]
    refine ⟨rfl, rfl, fun d => ?_⟩
    by_cases e : c = d
    · subst e; simp
    · simp [e, Ne.symm e]
  · rw [grantDecision_lines free none]
    have only := linesOnly_grantLines s.fla.list s
    refine ⟨only.csq, (arbiterOnly_grantLines (ArbiterOnly.refl s) _).gat, only.waiting, fun runs => ?_, fun complete last => ?_⟩
    · rw [list, grantLines_cons, if_neg (Nat.not_le.2 runs)]
      cases paused : s.fla.pause <;> simp [beginLine_fla, runLine_fla, paused]
    · subst last
      rw [list, grantLines_cons, if_pos complete]
      obtain ⟨still, pumps, toGat, _⟩ := toIdle_lists (skipLine p [] s)
      exact ⟨(toIdle_idle _).1, (toIdle_idle _).2, still.trans (by rw [skipLine_fla]), toGat.trans (by rw [skipLine_fla])⟩
  · have idle : grantDecision s = toIdle s := by
      rcases h with blocked | ⟨none, empty⟩
      · exact grantDecision_blocked blocked
      · cases free : grantBlocked s
        · rw [grantDecision_lines free none, empty]
          rfl
        · exact grantDecision_blocked free
    obtain ⟨_, _, _, waiting⟩ := toIdle_lists s
    rw [idle]
    exact ⟨(toIdle_idle s).1, (toIdle_idle s).2, waiting, toIdle_csq s⟩

end Sys2Proof.Machine
end

section
namespace Sys2Proof.Machine

/-! # What a departure does to the pump-out list (R58, R61, R65, R68) -/

/-- A grant or a departure lists no line anew, gives the foreline to no line but a listed one, moves no pump valve but a listed
line's, and takes no message back. -/
structure ListedOnly (s t : State) : Prop where
  list : ∀ p ∈ t.fla.list, p ∈ s.fla.list
  holder : ∀ l, t.fla.holder = some (.line l) → ∃ p ∈ s.fla.list, p.line = l
  pumps : ∀ l, (∀ p ∈ s.fla.list, p.line ≠ l) → t.fla.pumps.look l = s.fla.pumps.look l
  toGat : ∀ m ∈ s.fla.toGat, m ∈ t.fla.toGat

section
variable {s t : State}

/-- Where no line is granted the foreline, only the list, the pumps and the messages count. -/
theorem ListedOnly.of_same (list : t.fla.list = s.fla.list) (pumps : t.fla.pumps = s.fla.pumps) (toGat : t.fla.toGat = s.fla.toGat)
    (holder : ∀ l, t.fla.holder ≠ some (.line l)) : ListedOnly s t :=
  ⟨fun _ hp => list ▸ hp, fun l h => absurd h (holder l), fun l _ => by rw [pumps], fun _ hm => toGat ▸ hm⟩

theorem listedOnly_toIdle (s : State) : ListedOnly s (toIdle s) := by
  obtain ⟨list, pumps, toGat, _⟩ := toIdle_lists s
  exact .of_same list pumps toGat (fun l => by rw [(toIdle_idle s).2]; exact nofun)

theorem listedOnly_grantChamber (c : Chamber) (s : State) : ListedOnly s (grantChamber c s) := by
  have fla := grantChamber_fla c s
  exact .of_same (by rw [fla]) (by rw [fla]) (by rw [fla]) (fun l => by rw [fla]; exact nofun)

theorem listedOnly_grantLines (ps : List PumpEntry) (h : s.fla.list = ps) : ListedOnly s (grantLines ps s) := by
  induction ps generalizing s with
  | nil => exact listedOnly_toIdle s
  | cons p rest ih =>
    have head : p ∈ s.fla.list := h ▸ List.mem_cons_self
    rw [grantLines_cons]
    split
    · have fla := skipLine_fla p rest s
      have later := ih (s := skipLine p rest s) (by rw [fla])
      have tail {q : PumpEntry} (hq : q ∈ (skipLine p rest s).fla.list) : q ∈ s.fla.list := by
        rw [fla] at hq
        exact h ▸ List.mem_cons_of_mem p hq
      refine ⟨fun q hq => tail (later.list q hq), fun l hl => ?_, fun l hl => ?_, fun m hm => later.toGat m ?_⟩
      · obtain ⟨q, hq, line⟩ := later.holder l hl
        exact ⟨q, tail hq, line⟩
      · rw [later.pumps l (fun q hq => hl q (tail hq)), fla]
      · rw [fla]
        exact List.mem_append_left _ hm
    · split
      · have fla := beginLine_fla p rest s
        refine ⟨fun q hq => ?_, fun l hl => ⟨p, head, ?_⟩, fun l _ => by rw [fla], fun m hm => ?_⟩
        · rw [fla] at hq
          exact h ▸ hq
        · simpa [fla] using hl
        · rw [fla]
          exact List.mem_append_left _ hm
      · have fla := runLine_fla p rest s
        refine ⟨fun q hq => ?_, fun l hl => ⟨p, head, ?_⟩, fun l hl => ?_, fun m hm => ?_⟩
        · rw [fla] at hq
          exact h ▸ hq
        · simpa [fla] using hl
        · simp [fla, hl p head]
        · rw [fla]
          exact List.mem_append_left _ hm

theorem listedOnly_grantDecision (s : State) : ListedOnly s (grantDecision s) := by
  unfold grantDecision
  split
  · exact listedOnly_toIdle s
  · split
    · exact listedOnly_grantChamber _ s
    · exact listedOnly_grantLines _ rfl

theorem listedOnly_vacate (s : State) : ListedOnly s (vacate s) := by
  unfold vacate
  dsimp only
  split
  · exact .of_same (by simp [postForeline]) (by simp [postForeline]) (by simp [postForeline]) (fun l => by simp [postForeline])
  · have listed := listedOnly_grantDecision (s.modFla (fun a => { a with holder := none, progress := none }))
    exact ⟨listed.list, listed.holder, listed.pumps, listed.toGat⟩

end

/-! ## A holder that leaves the list (R65, R68) -/

/-- The line that holds the foreline has its pump valve closed and its entry dropped; a message may tell the GAT of it. -/
structure LeavesList (l : Line) (s u : State) : Prop where
  only : ArbiterOnly s u
  list : u.fla.list = s.fla.list.filter (fun p => p.line ≠ l)
  pump : u.fla.pumps.look l = (s.fla.pumps.look l).commandClose s.now s.cfg.pumpTravel

section
variable {s u : State} {l : Line}

theorem leavesList_dropEntry (l : Line) (s : State) : LeavesList l s (dropEntry l (closePump l s)) :=
  ⟨⟨rfl, rfl, rfl, rfl, rfl, rfl, rfl, rfl⟩, rfl, by simp [dropEntry, closePump, modPump]⟩

theorem LeavesList.unlisted (h : LeavesList l s u) : ∀ p ∈ u.fla.list, p.line ≠ l := by
  rw [h.list]
  simp

/-- Once the holder has left, its line is not listed, does not hold, and keeps its valve commanded closed. -/
theorem LeavesList.vacate (h : LeavesList l s u) : (∀ p ∈ (vacate u).fla.list, p.line ≠ l) ∧
    (vacate u).fla.holder ≠ some (.line l) ∧
    (vacate u).fla.pumps.look l = (s.fla.pumps.look l).commandClose s.now s.cfg.pumpTravel := by
  have listed := listedOnly_vacate u
  refine ⟨fun p hp => h.unlisted p (listed.list p hp), fun holds => ?_, (listed.pumps l h.unlisted).trans h.pump⟩
  obtain ⟨p, hp, line⟩ := listed.holder l holds
  exact h.unlisted p hp line

/-- A foreline command that leaves no service owed ends as it stands. -/
theorem ArbiterOnly.finish (only : ArbiterOnly s u) (served : Served s) : finish u = u.modSvl Svl.transmit :=
  finish_of_served (only.served served)

end

theorem execPumpoutCompletion_completed {s : State} (served : Served s) {l : Line} (h : completedLine s = some l) :
    exec .pumpoutCompletion s = .next ((completePumpout l s).modSvl Svl.transmit) ∧ ArbiterOnly s (completePumpout l s) := by
  have only : ArbiterOnly s (completePumpout l s) :=
    arbiterOnly_vacate (arbiterOnly_modFla (leavesList_dropEntry l s).only rfl rfl)
  refine ⟨?_, only⟩
  rw [← only.finish served]
  show Host.Outcome.next (finish _) = _
  rw [h]

/-- A removal of a line that holds the foreline, or of one that does not (R65). -/
theorem takeRemoval_only (l : Line) (s : State) : ArbiterOnly s (takeRemoval l s) := by
  unfold takeRemoval
  split
  · exact arbiterOnly_vacate (leavesList_dropEntry l s).only
  · exact arbiterOnly_modFla (ArbiterOnly.refl s) rfl rfl

/-- Settles O54: a departure lists, grants and moves no line but those that stay listed (ListedOnly), and the line that leaves is
no longer listed when the foreline is left (LeavesList.vacate). -/
theorem pumpoutsCompleteOrAreRemoved : Obligations.PumpoutsCompleteOrAreRemoved := by
  refine ⟨fun s served => ⟨fun none => ?_, fun l complete => ?_⟩, fun s l served => ⟨fun none => ?_, fun removal alone => ?_⟩⟩
  · show Host.Outcome.next (finish _) = _
    rw [none, finish_of_served served]
  · obtain ⟨ends, only⟩ := execPumpoutCompletion_completed served complete
    have dropped := leavesList_dropEntry l s
    have leaves : LeavesList l s (sendGat .complete l (dropEntry l (closePump l s))) :=
      ⟨arbiterOnly_modFla dropped.only rfl rfl, dropped.list, dropped.pump⟩
    obtain ⟨unlisted, holder, pump⟩ := leaves.vacate
    have told : (PumpMsg.complete, l) ∈ (completePumpout l s).fla.toGat :=
      (listedOnly_vacate _).toGat _ (List.mem_append_right _ List.mem_cons_self)
    exact ⟨_, ends, unlisted, holder, pump, told, only.gat, only.fcu, only.ilc, only.iiu, only.cfg, only.now⟩
  · show Host.Outcome.next (finish _) = _
    rw [if_neg none, finish_of_served served]
  · have only := takeRemoval_only l (takeOffFla l s)
    have alone : listingBehind l (takeRemoval l (takeOffFla l s)) = takeRemoval l (takeOffFla l s) :=
      if_neg (by rw [only.gat]; exact alone)
    have ends : exec (.removalMessage l) s = .next ((takeRemoval l (takeOffFla l s)).modSvl Svl.transmit) := by
      rw [← only.finish served]
      show Host.Outcome.next (finish _) = _
      rw [if_pos removal, alone]
    refine ⟨_, ends, ?_⟩
    by_cases holds : s.fla.holder = some (.line l)
    · have taken : takeRemoval l (takeOffFla l s) = vacate (dropEntry l (closePump l (takeOffFla l s))) := if_pos holds
      obtain ⟨unlisted, holder, pump⟩ := (leavesList_dropEntry l (takeOffFla l s)).vacate
      rw [← taken] at unlisted holder pump
      exact ⟨unlisted, holder, only.gat, fun _ => pump, fun other => absurd holds other, only.fcu, only.ilc, only.iiu, only.cfg,
        only.now⟩
    · have taken : takeRemoval l (takeOffFla l s) = dropEntry l (takeOffFla l s) := if_neg holds
      rw [taken]
      exact ⟨by simp [dropEntry], holds, rfl, fun h => absurd h holds, fun _ => ⟨rfl, rfl⟩, rfl, rfl, rfl, rfl, rfl⟩

end Sys2Proof.Machine
end

section
namespace Sys2Proof.Machine

open Host (Outcome)

/-! # LINE PUMPOUT (R62, R65, R78, R81) -/

/-- A row that shares its kind hands on a request that is its own (R174). -/
theorem request_of_row {s : State} {k : ReqKind} {f : Frame} {mine : List Byte → Bool} (h : Asks s k f) (m : mine f.body = true)
    (act : List Byte → State → Answer) :
    request k mine act s = putReply f (act f.body (popFrame s)).2 (act f.body (popFrame s)).1 := by
  unfold request
  simp [h.next, h.kind, m, handle, h.fits]

theorem refuses_of_row {i : Instr} {s : State} {k : ReqKind} {f : Frame} {mine : List Byte → Bool}
    {act : List Byte → State → Answer} {n : Nak} (he : exec i s = .next (finish (request k mine act s))) (h : Asks s k f)
    (m : mine f.body = true) (served : Served s) (ha : act f.body (popFrame s) = refuse n (popFrame s)) : Refuses i s f n := by
  rw [Refuses, he, request_of_row h m, ha]
  exact congrArg Outcome.next (finish_of_served (s := putReply f (.nak n) (popFrame s)) served)

/-- The transmitter that has a reply to send, or is busy, takes no event (R176). -/
theorem finish_putReply_events {u : State} (served : Served u) (f : Frame) (r : ReplyBody) :
    (finish (putReply f r u)).svl.events = u.svl.events := by
  have idle := Svl.transmit_reply (v := (putReply f r u).svl) (r := { tag := f.tag, body := r })
  have busy := Svl.transmit_busy (v := (putReply f r u).svl)
  rw [finish_of_served (s := putReply f r u) served, State.modSvl_svl]
  cases h : (putReply f r u).svl.tx.isSome
  · rw [idle h rfl]
    rfl
  · rw [busy h]
    rfl

/-! ## The line's state and its messages -/

section
variable (l : Line) (st : LineState) (cause : LineCause) (s : State)

@[simp] theorem setLineState_csq : (setLineState l st cause s).csq = s.csq := by simp [setLineState]
@[simp] theorem setLineState_fcu : (setLineState l st cause s).fcu = s.fcu := by simp [setLineState]
@[simp] theorem setLineState_fla : (setLineState l st cause s).fla = s.fla := by simp [setLineState]
@[simp] theorem setLineState_ilc : (setLineState l st cause s).ilc = s.ilc := by simp [setLineState]
@[simp] theorem setLineState_iiu : (setLineState l st cause s).iiu = s.iiu := by simp [setLineState]
@[simp] theorem setLineState_cfg : (setLineState l st cause s).cfg = s.cfg := by simp [setLineState]
@[simp] theorem setLineState_now : (setLineState l st cause s).now = s.now := by simp [setLineState]
@[simp] theorem setLineState_toFla : (setLineState l st cause s).gat.toFla = s.gat.toFla := by simp [setLineState]
@[simp] theorem setLineState_serviceDue : (setLineState l st cause s).gat.serviceDue = s.gat.serviceDue := by simp [setLineState]

theorem setLineState_ln (m : Line) :
    (setLineState l st cause s).ln m = if l = m then { s.ln l with state := st } else s.ln m := by
  simp [setLineState]

theorem firstMsg_eq_none {α : Type} {xs : List (α × Line)} (h : ∀ x ∈ xs, x.2 ≠ l) : firstMsg l xs = none := by
  unfold firstMsg
  rw [List.find?_eq_none.2 (by simpa using h)]
  rfl

/-- What blocks a grant is outside the arbiter and the gas table (R62). -/
theorem grantBlocked_congr {s t : State} (iiu : t.iiu = s.iiu) (ilc : t.ilc = s.ilc) (cfg : t.cfg = s.cfg) :
    grantBlocked t = grantBlocked s := by
  have level (i : Input) : levelRead t i = levelRead s i := by rw [levelRead, State.inp, iiu]; rfl
  have gauge : gaugeBlock t = gaugeBlock s := by
    unfold gaugeBlock findEntry State.pollDyn
    rw [ilc, cfg]
  rw [grantBlocked, emoAsserted, foreOk, level, level, gauge]
  rfl

variable {l s}

/-- With no message about the line on its way the GAT takes nothing. -/
theorem takeAllPumpMsgs_none (h : ∀ x ∈ s.fla.toGat, x.2 ≠ l) : takeAllPumpMsgs l s = s := by
  have kept : s.fla.toGat.filter (fun m => m.2 ≠ l) = s.fla.toGat := List.filter_eq_self.2 (by simpa using h)
  have taken : s.fla.toGat.filter (fun m => m.2 = l) = [] := List.filter_eq_nil_iff.2 (by simpa using h)
  show List.foldl _ (s.modFla (fun a => { a with toGat := a.toGat.filter (fun m => m.2 ≠ l) })) _ = s
  rw [taken, List.foldl_nil]
  show ({ s with fla := { s.fla with toGat := s.fla.toGat.filter (fun m => m.2 ≠ l) } } : State) = s
  rw [kept]

/-- A begun message that stands alone makes a listed line pump out (R81). -/
theorem takeAllPumpMsgs_begun {ms : List (PumpMsg × Line)} (h : s.fla.toGat = ms ++ [(.begun, l)]) (none : ∀ x ∈ ms, x.2 ≠ l)
    (pending : (s.ln l).state = .pumpoutPending) :
    takeAllPumpMsgs l s = setLineState l .pumpingOut .begun (s.modFla (fun a => { a with toGat := ms })) := by
  have kept : s.fla.toGat.filter (fun m => m.2 ≠ l) = ms := by
    rw [h, List.filter_append, List.filter_eq_self.2 (by simpa using none)]
    simp
  have taken : s.fla.toGat.filter (fun m => m.2 = l) = [(.begun, l)] := by
    rw [h, List.filter_append, List.filter_eq_nil_iff.2 (by simpa using none)]
    simp
  show List.foldl _ (s.modFla (fun a => { a with toGat := a.toGat.filter (fun m => m.2 ≠ l) })) _ = _
  have same : s.modFla (fun a => { a with toGat := a.toGat.filter (fun m => m.2 ≠ l) }) = s.modFla (fun a => { a with toGat := ms }) :=
    congrArg (fun ms => ({ s with fla := { s.fla with toGat := ms } } : State)) kept
  rw [taken, same, List.foldl_cons, List.foldl_nil]
  unfold takePumpMsg
  rw [State.modFla_ln, pending]

end

/-! ## What a listing does -/

/-- The list with a line behind it that has no progress yet (R65). -/
def listLast (l : Line) (s : State) : State := s.modFla (fun a => { a with list := a.list ++ [{ line := l, acc := 0 }] })

section
variable {s : State} {l : Line}

theorem listLine_unlisted (told : ∀ x ∈ s.gat.toFla, x.2 ≠ l) (fresh : ∀ p ∈ s.fla.list, p.line ≠ l) :
    listLine l s = takeAllPumpMsgs l (blockCleared (listLast l s)) := by
  have unlisted : ¬ s.fla.list.any (fun p => p.line = l) = true := by simpa using fresh
  unfold listLine takeListing
  rw [firstMsg_eq_none l told, if_neg unlisted]
  rfl

/-- Where the foreline is not free the line is listed last (R65). -/
theorem listLine_waits (told : ∀ x ∈ s.gat.toFla, x.2 ≠ l) (fresh : ∀ p ∈ s.fla.list, p.line ≠ l)
    (quiet : ∀ x ∈ s.fla.toGat, x.2 ≠ l) (busy : s.fla.state ≠ .idle ∨ grantBlocked s = true) : listLine l s = listLast l s := by
  rw [listLine_unlisted told fresh, blockCleared, if_neg]
  · exact takeAllPumpMsgs_none quiet
  · rintro ⟨idle, free⟩
    rcases busy with h | h
    · exact h idle
    · exact Bool.false_ne_true (free.symm.trans h)

/-- A free foreline goes to the only line listed, whose pump-out runs (R62, R66). -/
theorem blockCleared_listLast (idle : s.fla.state = .idle) (free : grantBlocked s = false)
    (none : ∀ d : Chamber, s.fla.waiting.look d = false) (empty : s.fla.list = []) (unpaused : s.fla.pause = false)
    (long : 0 < pumpTimeMs s l) : blockCleared (listLast l s) = runLine ⟨l, 0⟩ [] (listLast l s) := by
  have list : (listLast l s).fla.list = [⟨l, 0⟩] := by simp [listLast, empty]
  have runs : ¬ pumpTimeMs (listLast l s) l ≤ 0 := Nat.not_le.2 long
  have unpaused : ¬ (beginLine ⟨l, 0⟩ [] (listLast l s)).fla.pause = true := by simpa [beginLine_fla, listLast] using unpaused
  rw [blockCleared, if_pos ⟨idle, free⟩, grantDecision_lines (s := listLast l s) free (fun d _ => none d), list, grantLines_cons,
    if_neg runs, if_neg unpaused]

/-- On a free foreline the line is granted it, and its begun message is taken at once (R62, R66, R81). -/
theorem listLine_runs (told : ∀ x ∈ s.gat.toFla, x.2 ≠ l) (quiet : ∀ x ∈ s.fla.toGat, x.2 ≠ l)
    (pending : (s.ln l).state = .pumpoutPending) (empty : s.fla.list = [])
    (granted : blockCleared (listLast l s) = runLine ⟨l, 0⟩ [] (listLast l s)) :
    listLine l s = setLineState l .pumpingOut .begun
      ((runLine ⟨l, 0⟩ [] (listLast l s)).modFla (fun a => { a with toGat := s.fla.toGat })) := by
  have only := arbiterOnly_runLine (ArbiterOnly.refl (listLast l s)) ⟨l, 0⟩ []
  rw [listLine_unlisted told (by rw [empty]; exact nofun), granted]
  refine takeAllPumpMsgs_begun ?_ quiet ?_
  · rw [runLine_fla]
    rfl
  · rw [State.ln, only.gat]
    exact pending

end

/-! ## The request -/

/-- What PUMPOUT of a configured line answers (R78). -/
def judgePumpout (l : Line) (s : State) : Answer :=
  match pumpoutRefusal s l with
  | some n => refuse n s
  | none =>
    accept (lineReply (listLine l (setLineState l .pumpoutPending .pumpout s)) l)
      (listLine l (setLineState l .pumpoutPending .pumpout s))

section
variable {s : State} {l : Line}

theorem judgePumpout_refuses {n : Nak} (h : pumpoutRefusal s l = some n) : judgePumpout l s = refuse n s := by
  simp only [judgePumpout, h]

theorem judgePumpout_accepts (h : pumpoutRefusal s l = none) {t : State}
    (lists : listLine l (setLineState l .pumpoutPending .pumpout s) = t) : judgePumpout l s = accept (lineReply t l) t := by
  simp only [judgePumpout, h, lists]

end

section
variable {s : State} {f : Frame} {l : Line} (body : f.body = u8 (l.val + 1) ++ u8 0)
include body

theorem lineRow_pumpout : lineRow 0 f.body = true := by
  rw [lineRow, body]
  simp [u8]

theorem actLinePumpout_eq (s : State) : actLinePumpout f.body s =
    if (s.ln l).state = .unconfigured then refuse .notConfigured s else judgePumpout l s := by
  have number : oneBased 12 (field f.body 0 1) = some l := by
    rw [body, oneBased_eq_some]
    simp [u8]
    omega
  have op : field f.body 1 1 = 0 := by
    rw [body]
    simp [u8]
  unfold actLinePumpout onLine
  rw [number]
  by_cases known : (s.ln l).state = .unconfigured
  · simp [tested, refusal, op, known]
  · simp only [tested, refusal, op, known, decide_true, ne_eq, not_false_eq_true, if_true, if_false]
    rfl

variable (served : Served s) (asks : Asks s .line f)
include served asks

theorem linePumpout_unconfigured (h : (s.ln l).state = .unconfigured) : Refuses .linePumpout s f .notConfigured :=
  refuses_of_row rfl asks (lineRow_pumpout body) served ((actLinePumpout_eq body (popFrame s)).trans (if_pos h))

theorem linePumpout_refused {n : Nak} (known : (s.ln l).state ≠ .unconfigured) (h : pumpoutRefusal s l = some n) :
    Refuses .linePumpout s f n := by
  refine refuses_of_row rfl asks (lineRow_pumpout body) served ((actLinePumpout_eq body (popFrame s)).trans ?_)
  exact (if_neg known).trans (judgePumpout_refuses (s := popFrame s) h)

omit served in
theorem linePumpout_accepted (known : (s.ln l).state ≠ .unconfigured) (h : pumpoutRefusal s l = none) {t : State}
    (lists : listLine l (setLineState l .pumpoutPending .pumpout (popFrame s)) = t) :
    exec .linePumpout s = .next (finish (putReply f (.ack (lineReply t l)) t)) := by
  have act : actLinePumpout f.body (popFrame s) = accept (lineReply t l) t := by
    rw [actLinePumpout_eq body]
    exact (if_neg known).trans (judgePumpout_accepts (s := popFrame s) h lists)
  show Outcome.next (finish (request .line (lineRow 0) actLinePumpout s)) = _
  rw [request_of_row asks (lineRow_pumpout body), act]
  rfl

end

theorem pumpoutRefusal_eq_none {s : State} {l : Line} (h : (s.ln l).state = .ready ∧ allocated s l = 0 ∨
    (s.ln l).state = .lockedOut ∧ lineCabinetOk s l = true) : (s.ln l).state ≠ .unconfigured ∧ pumpoutRefusal s l = none := by
  unfold pumpoutRefusal
  rcases h with ⟨ready, free⟩ | ⟨locked, cabinet⟩
  · simp [ready, free]
  · simp [locked, cabinet]

theorem keeps_listLine {σ τ : State} (keep : Keeps σ τ) (l : Line) : Keeps σ (listLine l τ) := by
  unfold listLine
  split
  · exact keeps_sendFla keep _ _
  · exact keeps_takeAllPumpMsgs (keeps_takeListing keep l) l

/-- An accepted PUMPOUT is answered with the line and the state it is left in (R78). -/
theorem listLine_answered {s t : State} {f : Frame} {l : Line} {st : LineState} (state : (t.ln l).state = st)
    (lists : listLine l (setLineState l .pumpoutPending .pumpout (popFrame s)) = t) :
    Answered s (finish (putReply f (.ack (lineReply t l)) t)) f (.ack (u8 (l.val + 1) ++ u8 st.code)) := by
  have keep := keeps_listLine (keeps_setLineState (Keeps.refl (popFrame s)) l .pumpoutPending .pumpout) l
  rw [lists] at keep
  subst state
  exact answered_finish keep.svl

/-- A line that has been told PUMPOUT_PENDING, with its LINESTATE posted, and not listed yet. -/
structure Pending (l : Line) (s u : State) : Prop where
  fla : u.fla = s.fla
  toFla : u.gat.toFla = s.gat.toFla
  due : u.gat.serviceDue = s.gat.serviceDue
  line : u.ln l = { s.ln l with state := .pumpoutPending }
  others : ∀ m : Line, m ≠ l → u.ln m = s.ln m
  csq : u.csq = s.csq
  fcu : u.fcu = s.fcu
  ilc : u.ilc = s.ilc
  iiu : u.iiu = s.iiu
  cfg : u.cfg = s.cfg
  now : u.now = s.now
  events : Posted s u (.linestate l .pumpoutPending (allocated s l) .pumpout)

theorem pending_setLineState (l : Line) (s : State) : Pending l s (setLineState l .pumpoutPending .pumpout (popFrame s)) where
  fla := setLineState_fla _ _ _ _
  toFla := setLineState_toFla _ _ _ _
  due := setLineState_serviceDue _ _ _ _
  line := (setLineState_ln _ _ _ _ _).trans (if_pos rfl)
  others _ ne := (setLineState_ln _ _ _ _ _).trans (if_neg ne.symm)
  csq := setLineState_csq _ _ _ _
  fcu := setLineState_fcu _ _ _ _
  ilc := setLineState_ilc _ _ _ _
  iiu := setLineState_iiu _ _ _ _
  cfg := setLineState_cfg _ _ _ _
  now := setLineState_now _ _ _ _
  events unmasked room := (post_events _ _).trans (if_pos ⟨unmasked, room⟩)

theorem Pending.blocked {l : Line} {s u : State} (h : Pending l s u) : grantBlocked u = grantBlocked s :=
  grantBlocked_congr h.iiu h.ilc h.cfg

/-- What a line whose pump-out runs at once leaves of the state it was told PUMPOUT_PENDING in (R62, R66, R81). -/
theorem Pending.runs {l : Line} {s u t : State} (h : Pending l s u)
    (ht : t = setLineState l .pumpingOut .begun ((runLine ⟨l, 0⟩ [] (listLast l u)).modFla (fun a => { a with toGat := u.fla.toGat }))) :
    t.gat.serviceDue = s.gat.serviceDue ∧ t.ln l = { s.ln l with state := .pumpingOut } ∧ (∀ m : Line, m ≠ l → t.ln m = s.ln m) ∧
    t.fla.state = .heldPumpout ∧ t.fla.holder = some (.line l) ∧ t.fla.list = [{ line := l, acc := 0 }] ∧
    t.fla.progress = some s.now ∧ t.fla.pumpMs = pumpTimeMs s l ∧ (t.fla.pumps.look l).cmd = true ∧ t.fla.toGat = s.fla.toGat ∧
    t.csq = s.csq ∧ t.fcu = s.fcu ∧ t.cfg = s.cfg ∧ t.iiu = s.iiu ∧ t.ilc = s.ilc ∧ t.now = s.now := by
  have only := arbiterOnly_runLine (ArbiterOnly.refl (listLast l u)) ⟨l, 0⟩ []
  have lines := linesOnly_runLine ⟨l, 0⟩ [] (listLast l u)
  have ln (m : Line) : (runLine ⟨l, 0⟩ [] (listLast l u)).ln m = u.ln m := by rw [State.ln, only.gat]; rfl
  have ms : pumpTimeMs (listLast l u) l = pumpTimeMs s l := by
    unfold pumpTimeMs
    rw [show (listLast l u).cfg = s.cfg from h.cfg]
  subst ht
  refine ⟨?_, ?_, fun m ne => ?_, ?_⟩
  · rw [setLineState_serviceDue, State.modFla_gat, only.gat]
    exact h.due
  · rw [setLineState_ln, if_pos rfl, State.modFla_ln, ln, h.line]
  · rw [setLineState_ln, if_neg ne.symm, State.modFla_ln, ln, h.others m ne]
  · rw [setLineState_fla, State.modFla_fla, runLine_fla, h.fla]
    refine ⟨rfl, rfl, rfl, congrArg some h.now, ms, by simp [Valve.commandOpen], rfl, ?_⟩
    simp only [setLineState_csq, setLineState_fcu, setLineState_cfg, setLineState_iiu, setLineState_ilc, setLineState_now]
    exact ⟨lines.csq.trans h.csq, only.fcu.trans h.fcu, only.cfg.trans h.cfg, only.iiu.trans h.iiu, only.ilc.trans h.ilc,
      only.now.trans h.now⟩

/-- Settles O33: a listing that waits only joins the list (listLine_waits); on a free foreline the decision grants the line at once
and the begun message is taken in the same event (blockCleared_listLast, listLine_runs). -/
theorem linePumpoutListsLine : Obligations.LinePumpoutListsLine := by
  intro s f l served asks body
  refine ⟨linePumpout_unconfigured body served asks, fun ready used => ?_, fun pumps => ?_, fun locked cabinet => ?_,
    fun may told fresh quiet => ?_⟩
  · exact linePumpout_refused body served asks (by simp [ready]) (by simp [pumpoutRefusal, ready, used])
  · rcases pumps with h | h <;> exact linePumpout_refused body served asks (by simp [h]) (by simp [pumpoutRefusal, h])
  · exact linePumpout_refused body served asks (by simp [locked]) (by simp [pumpoutRefusal, locked, cabinet])
  · obtain ⟨known, accepts⟩ := pumpoutRefusal_eq_none may
    have pending := pending_setLineState l s
    generalize hu : setLineState l .pumpoutPending .pumpout (popFrame s) = u at pending
    have told : ∀ x ∈ u.gat.toFla, x.2 ≠ l := by rwa [pending.toFla]
    have quiet : ∀ x ∈ u.fla.toGat, x.2 ≠ l := by rwa [pending.fla]
    refine ⟨fun busy => ?_, fun idle free none empty unpaused long => ?_⟩
    · have lists : listLine l u = listLast l u :=
        listLine_waits told (by rwa [pending.fla]) quiet (by rwa [pending.fla, pending.blocked])
      have line : (listLast l u).ln l = { s.ln l with state := .pumpoutPending } := pending.line
      have due : Served (listLast l u) := pending.due.trans served
      have answered := listLine_answered (f := f) (congrArg LineDyn.state line) ((congrArg (listLine l) hu).trans lists)
      have posted : Posted s (finish (putReply f (.ack (lineReply (listLast l u) l)) (listLast l u)))
          (.linestate l .pumpoutPending (allocated s l) .pumpout) := fun unmasked room =>
        (finish_putReply_events due f _).trans (pending.events unmasked room)
      refine ⟨_, linePumpout_accepted body asks known accepts ((congrArg (listLine l) hu).trans lists), answered, ?_⟩
      refine ⟨?_, ?_, ?_, posted, ?_⟩ <;> rw [finish_of_served (s := putReply f _ (listLast l u)) due]
      · exact line
      · exact pending.others
      · exact congrArg (fun a : Fla => { a with list := a.list ++ [(⟨l, 0⟩ : PumpEntry)] }) pending.fla
      · exact ⟨pending.csq, pending.fcu, pending.cfg, pending.iiu, pending.ilc, pending.now⟩
    · have long : 0 < pumpTimeMs u l := by
        unfold pumpTimeMs at long ⊢
        rwa [pending.cfg]
      have granted := blockCleared_listLast (s := u) (by rwa [pending.fla]) (by rwa [pending.blocked])
        (by rwa [pending.fla]) (by rwa [pending.fla]) (by rwa [pending.fla]) long
      have lists := listLine_runs told quiet (by rw [pending.line]) (by rwa [pending.fla]) granted
      generalize ht : setLineState l .pumpingOut .begun _ = t at lists
      obtain ⟨due, line, others⟩ := pending.runs ht.symm
      have answered := listLine_answered (f := f) (congrArg LineDyn.state line) ((congrArg (listLine l) hu).trans lists)
      refine ⟨_, linePumpout_accepted body asks known accepts ((congrArg (listLine l) hu).trans lists), answered, ?_⟩
      rw [finish_of_served (s := putReply f _ t) (due.trans served)]
      exact ⟨line, others⟩

end Sys2Proof.Machine
end

section
namespace Sys2Proof.Machine

open Host (Outcome)

/-! # CFGFL and CFGIQ (R72, R162) -/

/-! ## Fields of a body made of parts (R183) -/

section
variable (b : List Byte) (n : Nat)

/-- A field behind a part of known length. -/
theorem field_append {a : List Byte} {k : Nat} (h : a.length = k) (b : List Byte) (off n : Nat) :
    field (a ++ b) (k + off) n = field b off n := by
  subst h
  unfold field
  rw [List.drop_append, List.drop_eq_nil_of_le (by omega), List.nil_append, Nat.add_sub_cancel_left]

theorem field_u16 (h : n < 65536) : field (u16 n ++ b) 0 2 = n := by
  simp [field, u16, bytesNat]
  omega

theorem field_u32 (h : n < 4294967296) : field (u32 n ++ b) 0 4 = n := by
  simp [field, u32, u16, bytesNat]
  omega

end

theorem within_iff {n lo hi : Nat} : within n lo hi = true ↔ lo ≤ n ∧ n ≤ hi := by simp [within]

/-! ## The chain order (R72) -/

/-- A list of the six chambers that repeats none omits none, and the other way round. -/
theorem nodup_iff_all_mem {chain : List Chamber} (six : chain.length = 6) : chain.Nodup ↔ ∀ c : Chamber, c ∈ chain := by
  have card : chain.toFinset = Finset.univ ↔ chain.toFinset.card = chain.length := by
    rw [← Finset.card_eq_iff_eq_univ, Fintype.card_fin, six]
  have nodup : chain.toFinset.card = chain.length ↔ chain.Nodup :=
    Multiset.toFinset_card_eq_card_iff_nodup (m := (chain : Multiset Chamber))
  rw [← nodup, ← card, Finset.eq_univ_iff_forall]
  simp only [List.mem_toFinset]

/-- The bytes of a list of chambers name them. -/
theorem filterMap_chamberBytes (chain : List Chamber) :
    (chain.flatMap (fun c => u8 (c.val + 1))).filterMap (fun b => oneBased 6 b.toNat) = chain := by
  induction chain with
  | nil => rfl
  | cons c rest ih =>
    have number : oneBased 6 (BitVec.ofNat 8 (c.val + 1)).toNat = some c := by
      rw [oneBased_eq_some, BitVec.toNat_ofNat]
      omega
    rw [List.flatMap_cons, List.filterMap_append, ih, u8,
      List.filterMap_cons_some (f := fun b : Byte => oneBased 6 b.toNat) number, List.filterMap_nil]
    rfl

theorem length_chamberBytes (chain : List Chamber) : (chain.flatMap (fun c => u8 (c.val + 1))).length = chain.length := by
  simp [u8, List.length_flatMap]

theorem chainOf_chain {chain : List Chamber} (six : chain.length = 6) (rest : List Byte) :
    chainOf (chain.flatMap (fun c => u8 (c.val + 1)) ++ rest) = if chain.Nodup then some chain else none := by
  have sent : (chain.flatMap (fun c => u8 (c.val + 1)) ++ rest).take 6 = chain.flatMap (fun c => u8 (c.val + 1)) :=
    List.take_left' ((length_chamberBytes chain).trans six)
  have all : (allIx 6).all (fun c => decide (c ∈ chain)) = true ↔ chain.Nodup := by
    rw [nodup_iff_all_mem six]
    simp
  unfold chainOf
  simp only [sent, filterMap_chamberBytes, six, all, true_and]

/-- A byte that names no chamber leaves the chain short. -/
theorem chainOf_badByte {body : List Byte} (h : ∃ b ∈ body.take 6, b.toNat = 0 ∨ 6 < b.toNat) : chainOf body = none := by
  obtain ⟨b, mem, bad⟩ := h
  have short : ((body.take 6).filterMap (fun b => oneBased 6 b.toNat)).length ≠ 6 := by
    intro six
    have le := List.length_filterMap_le (fun b : Byte => oneBased 6 b.toNat) (body.take 6)
    have six' : (body.take 6).length ≤ 6 := List.length_take_le _ _
    have all := List.filterMap_length_eq_length.1 (six.trans (by omega : 6 = (body.take 6).length)) b mem
    rw [oneBased_eq_none.2 bad] at all
    exact Bool.false_ne_true all
  unfold chainOf
  exact if_neg (fun h => short h.1)

/-! ## CFGFL -/

/-- The ranges of the foreline settings (R72). -/
def forelineInRange (limit resume travel : Nat) : Prop :=
  10000 ≤ limit ∧ limit ≤ 10000000 ∧ 1000 ≤ resume ∧ resume ≤ 9999999 ∧ resume < limit ∧ 20 ≤ travel ∧ travel ≤ 2000

theorem actCfgfl_badChain {body : List Byte} (h : chainOf body = none) (s : State) : actCfgfl body s = refuse .badValue s := by
  unfold actCfgfl
  rw [h]

section
variable {chain : List Chamber} {limit resume travel : Nat} (six : chain.length = 6) (nodup : chain.Nodup)
  (hl : limit < 4294967296) (hr : resume < 4294967296) (ht : travel < 65536)
include six nodup hl hr ht

/-- CFGFL with a chain order tests its settings' ranges and then the gate (R72, R164). -/
theorem actCfgfl_chain (s : State) :
    actCfgfl (chain.flatMap (fun c => u8 (c.val + 1)) ++ u32 limit ++ u32 resume ++ u16 travel) s =
    tested [(within limit 10000 10000000 && within resume 1000 9999999 && decide (resume < limit) && within travel 20 2000,
      .badValue), (gateOpen s, .locked)] s (accept [] (writeForeline chain limit resume travel s)) := by
  have head : (chain.flatMap (fun c => u8 (c.val + 1))).length = 6 := (length_chamberBytes chain).trans six
  have f6 : field (chain.flatMap (fun c => u8 (c.val + 1)) ++ (u32 limit ++ (u32 resume ++ u16 travel))) 6 4 = limit :=
    (field_append head _ 0 4).trans (field_u32 _ _ hl)
  have f10 : field (chain.flatMap (fun c => u8 (c.val + 1)) ++ (u32 limit ++ (u32 resume ++ u16 travel))) 10 4 = resume :=
    (field_append head _ 4 4).trans ((field_append (k := 4) rfl _ 0 4).trans (field_u32 _ _ hr))
  have f14 : field (chain.flatMap (fun c => u8 (c.val + 1)) ++ (u32 limit ++ (u32 resume ++ u16 travel))) 14 2 = travel := by
    refine (field_append head _ 8 2).trans ((field_append (k := 4) rfl _ 4 2).trans ((field_append (k := 4) rfl _ 0 2).trans ?_))
    exact List.append_nil (u16 travel) ▸ field_u16 [] _ ht
  unfold actCfgfl
  rw [List.append_assoc, List.append_assoc, chainOf_chain six, if_pos nodup]
  simp only [f6, f10, f14]

theorem actCfgfl_accepts {s : State} (range : forelineInRange limit resume travel) (gate : gateOpen s = true) :
    actCfgfl (chain.flatMap (fun c => u8 (c.val + 1)) ++ u32 limit ++ u32 resume ++ u16 travel) s =
      accept [] (writeForeline chain limit resume travel s) := by
  obtain ⟨l1, l2, r1, r2, rl, t1, t2⟩ := range
  rw [actCfgfl_chain six nodup hl hr ht]
  simp [tested, refusal, within, *]

theorem actCfgfl_badRange (range : ¬forelineInRange limit resume travel) (s : State) :
    actCfgfl (chain.flatMap (fun c => u8 (c.val + 1)) ++ u32 limit ++ u32 resume ++ u16 travel) s = refuse .badValue s := by
  have fails : (within limit 10000 10000000 && within resume 1000 9999999 && decide (resume < limit) && within travel 20 2000) =
      false := by
    refine Bool.eq_false_iff.2 (fun h => range ?_)
    simp only [Bool.and_eq_true, within_iff, decide_eq_true_eq] at h
    obtain ⟨⟨⟨⟨l1, l2⟩, r1, r2⟩, rl⟩, t1, t2⟩ := h
    exact ⟨l1, l2, r1, r2, rl, t1, t2⟩
  rw [actCfgfl_chain six nodup hl hr ht, fails]
  rfl

end

/-! ## CFGIQ -/

/-- An input's own code names it alone (R162, R183). -/
theorem inputsOf_inputCode (i : Input) : inputsOf (inputCode i).1 (inputCode i).2 = [i] := by
  have number (c : Chamber) : oneBased 6 (c.val + 1) = some c := oneBased_eq_some.2 rfl
  cases i with
  | emo | foreOk | exhOk | cfgProtect => rfl
  | cabOk n => fin_cases n <;> rfl
  | lidClosed c | turboOk c | endpoint c =>
    simp only [inputCode, inputsOf, toolInputOf, number, Nat.succ_ne_zero, if_false]
    rfl

/-- The chamber inputs of a code are those that have it. -/
theorem mem_inputsOf {n : Nat} (h : 8 ≤ n ∧ n ≤ 10) (i : Input) : i ∈ inputsOf n 0 ↔ (inputCode i).1 = n := by
  obtain ⟨eight, ten⟩ := h
  have chambers : inputsOf n 0 = (allIx 6).filterMap (chamberInputOf n) := by
    interval_cases n <;> rfl
  rw [chambers, List.mem_filterMap]
  interval_cases n <;> cases i <;> simp [chamberInputOf, inputCode] <;> omega

theorem inputsOf_ne_nil {n : Nat} (h : 8 ≤ n ∧ n ≤ 10) : inputsOf n 0 ≠ [] := by
  have named : ∃ i, (inputCode i).1 = n := by
    obtain ⟨eight, ten⟩ := h
    interval_cases n
    · exact ⟨.lidClosed 0, rfl⟩
    · exact ⟨.turboOk 0, rfl⟩
    · exact ⟨.endpoint 0, rfl⟩
  obtain ⟨i, code⟩ := named
  exact List.ne_nil_of_mem ((mem_inputsOf h i).2 code)

theorem look_writeQual (is : List Input) (ms : Nat) (t : Table Nat 26) (i : Input) :
    (is.foldl (fun t i => t.put (inputIx i) ms) t).look (inputIx i) = if i ∈ is then ms else t.look (inputIx i) := by
  have places : is.foldl (fun t i => t.put (inputIx i) ms) t = (is.map inputIx).foldl (fun t j => t.put j ms) t :=
    (List.foldl_map (f := inputIx) (g := fun (t : Table Nat 26) j => t.put j ms)).symm
  have same : inputIx i ∈ is.map inputIx ↔ i ∈ is := by
    rw [List.mem_map]
    exact ⟨fun ⟨j, hj, e⟩ => inputIx_injective e ▸ hj, fun hi => ⟨i, hi, rfl⟩⟩
  rw [places, look_foldl_put (fun _ => ms)]
  exact if_congr same rfl rfl

section
variable {n ch ms : Nat} (hn : n < 256) (hch : ch < 256) (hms : ms < 4294967296)
include hn hch hms

/-- CFGIQ tests its inputs, the time's range and then the gate (R162, R164). -/
theorem actCfgiq_eq (s : State) : actCfgiq (u8 n ++ u8 ch ++ u32 ms) s =
    tested [(decide (inputsOf n ch ≠ []), .badTarget), (within ms 1 15, .badValue), (gateOpen s, .locked)] s
      (accept [] (writeQual (inputsOf n ch) ms s)) := by
  have code : field (u8 n ++ u8 ch ++ u32 ms) 0 1 = n := (field_cons_zero_one _ _).trans (Nat.mod_eq_of_lt hn)
  have chamber : field (u8 n ++ u8 ch ++ u32 ms) 1 1 = ch := (field_cons_cons_one_one _ _ _).trans (Nat.mod_eq_of_lt hch)
  have time : field (u8 n ++ u8 ch ++ u32 ms) 2 4 = ms :=
    (field_append (k := 2) rfl _ 0 4).trans (List.append_nil (u32 ms) ▸ field_u32 [] _ hms)
  unfold actCfgiq
  simp only [code, chamber, time]

theorem actCfgiq_accepts {s : State} (some : inputsOf n ch ≠ []) (one : 1 ≤ ms) (fifteen : ms ≤ 15) (gate : gateOpen s = true) :
    actCfgiq (u8 n ++ u8 ch ++ u32 ms) s = accept [] (writeQual (inputsOf n ch) ms s) := by
  rw [actCfgiq_eq hn hch hms]
  simp [tested, refusal, within, *]

theorem actCfgiq_badValue (some : inputsOf n ch ≠ []) (bad : ms = 0 ∨ 15 < ms) (s : State) :
    actCfgiq (u8 n ++ u8 ch ++ u32 ms) s = refuse .badValue s := by
  have fails : within ms 1 15 = false := Bool.eq_false_iff.2 (fun h => by rw [within_iff] at h; omega)
  rw [actCfgiq_eq hn hch hms]
  simp [tested, refusal, some, fails]

end

theorem inputCode_lt (i : Input) : (inputCode i).1 < 256 ∧ (inputCode i).2 < 256 := by
  cases i <;> simp only [inputCode] <;> omega

/-- Settles O17: both requests' tests by their bodies' fields (actCfgfl_chain, actCfgiq_eq); a chain that names the six chambers
repeats none exactly where it omits none (nodup_iff_all_mem). -/
theorem forelineAndInputSettingsWritten : Obligations.ForelineAndInputSettingsWritten := by
  refine ⟨fun s f chain limit resume travel served asks six nodup hl hr ht body => ⟨fun range gate => ?_, fun range => ?_⟩,
    fun s f served asks => ⟨fun chain rest six repeats body => ?_, fun bad => ?_⟩,
    fun s f ms served asks hms => ⟨fun i body => ?_, fun n eight ten body one fifteen gate => ?_⟩⟩
  · exact exec_answered (t := writeForeline chain limit resume travel s) rfl asks served
      (body ▸ actCfgfl_accepts (s := popFrame s) six nodup hl hr ht range gate)
  · exact refuses_of_refuse rfl asks served (body ▸ actCfgfl_badRange six nodup hl hr ht range (popFrame s))
  · refine refuses_of_refuse rfl asks served (actCfgfl_badChain ?_ _)
    rw [body, chainOf_chain six, if_neg repeats]
  · exact refuses_of_refuse rfl asks served (actCfgfl_badChain (chainOf_badByte bad) _)
  · obtain ⟨hn, hch⟩ := inputCode_lt i
    have named : inputsOf (inputCode i).1 (inputCode i).2 ≠ [] := by rw [inputsOf_inputCode]; exact nofun
    refine ⟨fun one fifteen gate => ?_, fun bad => ?_⟩
    · refine exec_answered (t := writeQual [i] ms s) rfl asks served ?_
      rw [body, actCfgiq_accepts (s := popFrame s) hn hch hms named one fifteen gate, inputsOf_inputCode]
      rfl
    · exact refuses_of_refuse rfl asks served (body ▸ actCfgiq_badValue hn hch hms named bad (popFrame s))
  · have members := mem_inputsOf ⟨eight, ten⟩
    refine ⟨_, fun i => (look_writeQual (inputsOf n.toNat 0) ms s.cfg.qualMs i).trans (if_congr (members i) rfl rfl), ?_⟩
    refine exec_answered (t := writeQual (inputsOf n.toNat 0) ms s) rfl asks served ?_
    have code : [n] = u8 n.toNat := by simp [u8]
    rw [body, code, actCfgiq_accepts (s := popFrame s) n.isLt (by decide) hms (inputsOf_ne_nil ⟨eight, ten⟩) one fifteen gate]
    rfl

end Sys2Proof.Machine
end

section
namespace Sys2Proof.Machine

/-! # The Instrument Link's own work, as the soft reset finds it (R144, R146 to R148, R154) -/

/-- What an operation leaves alone, a fold of it leaves alone. -/
theorem foldl_same {α β : Type} {p : State → β} {f : State → α → State} (hf : ∀ u a, p (f u a) = p u) (xs : List α) (s : State) :
    p (xs.foldl f s) = p s := by
  induction xs generalizing s with
  | nil => rfl
  | cons a rest ih => exact (ih (f s a)).trans (hf s a)

/-- An entry's instrument state and its misses. -/
def instOf (s : State) (e : EntryIx) : InstState × Nat := ((s.pollDyn e).state, (s.pollDyn e).misses)

section
variable (s : State)

theorem instOf_modPoll (e : EntryIx) {f : PollDyn → PollDyn} (h : ∀ x : PollDyn, (f x).state = x.state ∧ (f x).misses = x.misses) :
    instOf (s.modPoll e f) = instOf s := by
  funext d
  unfold instOf
  rw [State.modPoll_pollDyn]
  split
  · rename_i eq
    subst eq
    rw [(h _).1, (h _).2]
  · rfl

@[simp] theorem instOf_modIlc {f : Ilc → Ilc} (h : (f s.ilc).poll = s.ilc.poll) : instOf (s.modIlc f) = instOf s := by
  funext d
  simp only [instOf, State.pollDyn, State.modIlc, h]

@[simp] theorem instOf_post (e : Event) : instOf (post e s) = instOf s := by
  funext d
  simp [instOf]

/-! ## Building transactions -/

@[simp] theorem buildRamp_ilc (p : PollCfg) : (buildRamp p s).ilc = s.ilc := by
  unfold buildRamp
  split <;> rfl

@[simp] theorem buildRamp_svl (p : PollCfg) : (buildRamp p s).svl = s.svl := by
  unfold buildRamp
  split <;> rfl

theorem instOf_of_ilc {s t : State} (h : t.ilc = s.ilc) : instOf t = instOf s := by
  funext d
  simp only [instOf, State.pollDyn, h]

theorem instOf_buildTxn (e : EntryIx) : instOf (buildTxn e s) = instOf s := by
  unfold buildTxn
  exact (instOf_modIlc _ rfl).trans ((instOf_of_ilc (buildRamp_ilc _ _)).trans (instOf_modPoll s e (fun _ => ⟨rfl, rfl⟩)))

theorem buildTxn_urgent (e : EntryIx) : (buildTxn e s).ilc.urgent = s.ilc.urgent := by
  show (buildRamp _ _).ilc.urgent = _
  rw [buildRamp_ilc]
  rfl

theorem buildTxn_svl (e : EntryIx) : (buildTxn e s).svl = s.svl := by
  unfold buildTxn
  exact buildRamp_svl _ _

theorem instOf_buildNext : instOf (buildNext s) = instOf s := by
  unfold buildNext
  split
  · rfl
  · exact (instOf_buildTxn _ _).trans (instOf_modIlc s rfl)

theorem buildNext_urgent : (buildNext s).ilc.urgent = s.ilc.urgent := by
  unfold buildNext
  split
  · rfl
  · exact buildTxn_urgent _ _

theorem buildNext_svl : (buildNext s).svl = s.svl := by
  unfold buildNext
  split
  · rfl
  · exact buildTxn_svl _ _

/-! ## Beginning frames -/

theorem tick_keeps (used : Bool) (x : PollDyn) :
    (x.tick used).state = x.state ∧ (x.tick used).misses = x.misses ∧ (x.tick used).late = x.late := by
  unfold PollDyn.tick
  split <;> exact ⟨rfl, rfl, rfl⟩

theorem instOf_tickCountdowns : instOf (tickCountdowns s) = instOf s := by
  unfold tickCountdowns
  exact foldl_same (fun u e => instOf_modPoll u e (fun x => ⟨(tick_keeps _ x).1, (tick_keeps _ x).2.1⟩)) _ s

theorem tickCountdowns_urgent : (tickCountdowns s).ilc.urgent = s.ilc.urgent := by
  unfold tickCountdowns
  refine foldl_same (p := fun u => u.ilc.urgent) (fun u e => ?_) _ s
  rfl

theorem tickCountdowns_svl : (tickCountdowns s).svl = s.svl := by
  unfold tickCountdowns
  refine foldl_same (p := State.svl) (fun u e => ?_) _ s
  rfl

theorem tickCountdowns_late (d : EntryIx) : ((tickCountdowns s).pollDyn d).late = (s.pollDyn d).late := by
  unfold tickCountdowns
  refine foldl_same (p := fun u => (u.pollDyn d).late) (fun u e => ?_) _ s
  rw [State.modPoll_pollDyn]
  split
  · rename_i eq
    subst eq
    exact (tick_keeps _ _).2.2
  · rfl

theorem instOf_countLate (e : EntryIx) : instOf (countLate e s) = instOf s := by
  have counted : instOf (s.modPoll e (fun x => { x with late := min ((s.pollDyn e).late + 1) Config.lateCountMax })) = instOf s :=
    instOf_modPoll s e (fun _ => ⟨rfl, rfl⟩)
  unfold countLate
  dsimp only
  split
  · exact (instOf_post _ _).trans counted
  · exact counted

theorem countLate_urgent (e : EntryIx) : (countLate e s).ilc.urgent = s.ilc.urgent := by
  unfold countLate
  dsimp only
  split
  · rw [post_ilc]
    rfl
  · rfl

/-- A count that does not reach 5 posts nothing (R148). -/
theorem countLate_of_early {e : EntryIx} (h : (s.pollDyn e).late = 0) :
    countLate e s = s.modPoll e (fun x => { x with late := 1 }) := by
  unfold countLate
  rw [h]
  rfl

theorem instOf_beginFrame : instOf (beginFrame s) = instOf s := by
  unfold beginFrame
  dsimp only
  rw [instOf_buildNext, foldl_same (p := instOf), instOf_modIlc _ rfl, instOf_tickCountdowns]
  intro u e
  split
  · exact instOf_countLate u e
  · rfl

theorem beginFrame_urgent : (beginFrame s).ilc.urgent = s.ilc.urgent.drop s.cfg.budget := by
  have ticked := tickCountdowns_urgent s
  have cfg : (tickCountdowns s).cfg = s.cfg := (keeps_tickCountdowns (Keeps.refl s)).cfg
  unfold beginFrame
  dsimp only
  rw [buildNext_urgent, foldl_same (p := fun u => u.ilc.urgent), ← ticked, ← cfg]
  · rfl
  · intro u e
    split
    · exact countLate_urgent u e
    · rfl

theorem instOf_endTxn : instOf (endTxn s) = instOf s := by
  have built : instOf (buildNext (s.modIlc (fun i => { i with inFlight := none }))) = instOf s :=
    (instOf_buildNext _).trans (instOf_modIlc s rfl)
  unfold endTxn
  dsimp only
  split
  · exact (instOf_beginFrame _).trans built
  · exact built

/-! ## A frame of entries that are not late -/

/-- No used entry of the list has been late. -/
def NoneLate (s : State) (xs : List EntryIx) : Prop := ∀ e ∈ xs, (s.cfg.poll.look e).used = true → (s.pollDyn e).late = 0

variable {s}

/-- Entries counted late for the first time post nothing (R148). -/
theorem foldl_countLate_svl {p : State → EntryIx → Bool} (due : ∀ u e, p u e = true → (u.cfg.poll.look e).used = true)
    {xs : List EntryIx} (nodup : xs.Nodup) (early : NoneLate s xs) :
    (xs.foldl (fun u e => if p u e then countLate e u else u) s).svl = s.svl := by
  induction xs generalizing s with
  | nil => rfl
  | cons e rest ih =>
    obtain ⟨fresh, nodup⟩ := List.nodup_cons.1 nodup
    obtain ⟨first, others⟩ := List.forall_mem_cons.1 early
    rw [List.foldl_cons]
    split
    · rename_i counts
      rw [countLate_of_early s (first (due s e counts))]
      refine (ih nodup (fun d hd used => ?_)).trans rfl
      have ne : e ≠ d := fun eq => fresh (eq ▸ hd)
      rw [State.modPoll_pollDyn, if_neg ne]
      exact others d hd used
    · exact ih nodup others

theorem NoneLate.modIlc {xs : List EntryIx} (early : NoneLate s xs) {f : Ilc → Ilc} (h : (f s.ilc).poll = s.ilc.poll) :
    NoneLate (s.modIlc f) xs := fun e he used => by
  have same : (s.modIlc f).pollDyn e = s.pollDyn e := congrArg (Table.look · e) h
  exact same ▸ early e he used

theorem beginFrame_svl (early : NoneLate s (allIx 96)) : (beginFrame s).svl = s.svl := by
  have cfg : (tickCountdowns s).cfg = s.cfg := (keeps_tickCountdowns (Keeps.refl s)).cfg
  have ticked : NoneLate (tickCountdowns s) (allIx 96) := fun e he used =>
    (tickCountdowns_late s e).trans (early e he (cfg ▸ used))
  have due (xs : List EntryIx) (u : State) (e : EntryIx) (h : (isDue u e && !decide (e ∈ xs)) = true) :
      (u.cfg.poll.look e).used = true := by
    simp only [isDue, Bool.and_eq_true] at h
    exact h.1.1
  unfold beginFrame
  dsimp only
  rw [buildNext_svl, foldl_countLate_svl (due _) (List.nodup_finRange 96)]
  · rw [State.modIlc_svl, tickCountdowns_svl]
  · exact ticked.modIlc rfl

end

end Sys2Proof.Machine
end

section
namespace Sys2Proof.Machine

open Host (Outcome)

/-! # The soft reset of the other blocks (R74, R97, R154, R181) -/

section
variable (s : State)

/-! ## The gas table (R97) -/

/-- A change of each line of a list is made once. -/
theorem ln_foldl_modLine (f : Line → LineDyn → LineDyn) {xs : List Line} (nodup : xs.Nodup) (l : Line) :
    (xs.foldl (fun u m => u.modLine m (f m)) s).ln l = if l ∈ xs then f l (s.ln l) else s.ln l := by
  induction xs generalizing s with
  | nil => rfl
  | cons m rest ih =>
    obtain ⟨fresh, nodup⟩ := List.nodup_cons.1 nodup
    rw [List.foldl_cons, ih _ nodup]
    by_cases e : m = l
    · subst e; simp [fresh]
    · simp [e, Ne.symm e]

/-- The messages about a line that the gas table's reset takes (notes/assumptions/12.md). -/
def msgsAbout (l : Line) (s : State) : List PumpMsg := (s.fla.toGat.filter (fun m => m.2 = l)).map (·.1)

/-- Every line after the messages and the reset. -/
def linesReset (s : State) : State := (allIx 12).foldl (fun u l => u.modLine l (LineDyn.softReset (msgsAbout l s))) s

theorem resetGat_eq : resetGat s =
    ((linesReset s).modGat (fun g => { g with queue := [], serviceDue := false })).modFla (fun a => { a with toGat := [] }) := rfl

theorem linesReset_ln (l : Line) : (linesReset s).ln l = LineDyn.softReset (msgsAbout l s) (s.ln l) := by
  unfold linesReset
  rw [ln_foldl_modLine s (fun l => LineDyn.softReset (msgsAbout l s)) (List.nodup_finRange 12), if_pos (List.mem_finRange l)]

theorem linesReset_same {β : Type} {p : State → β} (h : ∀ u l f, p (State.modLine u l f) = p u) : p (linesReset s) = p s := by
  unfold linesReset
  refine foldl_same (p := p) (fun u l => ?_) _ s
  exact h u l _

theorem resetGat_ln (l : Line) : (resetGat s).ln l = LineDyn.softReset (msgsAbout l s) (s.ln l) := by
  have reset := linesReset_ln s l
  rw [resetGat_eq, State.modFla_ln]
  generalize linesReset s = t at reset ⊢
  exact reset

theorem resetGat_other : (resetGat s).svl = s.svl ∧ (resetGat s).ilc = s.ilc ∧ (resetGat s).cfg = s.cfg ∧
    (resetGat s).gat.queue = [] ∧ (resetGat s).gat.serviceDue = false := by
  have svl := linesReset_same s (p := State.svl) (fun _ _ _ => rfl)
  have ilc := linesReset_same s (p := State.ilc) (fun _ _ _ => rfl)
  have cfg := linesReset_same s (p := State.cfg) (fun _ _ _ => rfl)
  rw [resetGat_eq]
  generalize linesReset s = t at svl ilc cfg
  exact ⟨svl, ilc, cfg, rfl, rfl⟩

theorem softReset_ne_pumpingOut (msgs : List PumpMsg) (x : LineDyn) : (x.softReset msgs).state ≠ .pumpingOut := by
  unfold LineDyn.softReset
  dsimp only
  split
  · exact nofun
  · assumption

theorem softReset_idle {x : LineDyn} (h : x.state ≠ .pumpingOut) : x.softReset [] = x := by
  simp [LineDyn.softReset, h]

/-! ## The Instrument Link (R154) -/

/-- A change of each entry of a list, by the configuration, is made once. -/
theorem pollDyn_foldl_modPoll (f : Cfg → EntryIx → PollDyn → PollDyn) {xs : List EntryIx} (nodup : xs.Nodup) (e : EntryIx) :
    (xs.foldl (fun u d => u.modPoll d (f u.cfg d)) s).pollDyn e = if e ∈ xs then f s.cfg e (s.pollDyn e) else s.pollDyn e := by
  induction xs generalizing s with
  | nil => rfl
  | cons d rest ih =>
    obtain ⟨fresh, nodup⟩ := List.nodup_cons.1 nodup
    rw [List.foldl_cons, ih _ nodup]
    by_cases eq : d = e
    · subst eq; simp [fresh]
    · simp [eq, Ne.symm eq]

/-- The poll table with every used entry UNKNOWN and no work left (R154). -/
def unknownTable (s : State) : State :=
  ((allIx 96).foldl (fun s e => s.modPoll e (PollDyn.softReset e (s.cfg.poll.look e) s.cfg.enabled)) s).modIlc
    (fun i => { i with urgent := [], frameRest := [], inFlight := none })

theorem resetIlc_eq : resetIlc s = if (unknownTable s).cfg.enabled then beginFrame (unknownTable s) else unknownTable s := rfl

theorem pollDyn_modIlc {f : Ilc → Ilc} (h : (f s.ilc).poll = s.ilc.poll) (e : EntryIx) : (s.modIlc f).pollDyn e = s.pollDyn e :=
  congrArg (Table.look · e) h

theorem unknownTable_pollDyn (e : EntryIx) :
    (unknownTable s).pollDyn e = PollDyn.softReset e (s.cfg.poll.look e) s.cfg.enabled (s.pollDyn e) := by
  unfold unknownTable
  rw [pollDyn_modIlc _ rfl, pollDyn_foldl_modPoll s (fun g e => PollDyn.softReset e (g.poll.look e) g.enabled)
    (List.nodup_finRange 96), if_pos (List.mem_finRange e)]

theorem unknownTable_cfg : (unknownTable s).cfg = s.cfg := by
  unfold unknownTable
  rw [State.modIlc_cfg]
  exact foldl_same (p := State.cfg) (f := fun s e => s.modPoll e (PollDyn.softReset e (s.cfg.poll.look e) s.cfg.enabled))
    (fun _ _ => rfl) (allIx 96) s

theorem unknownTable_svl : (unknownTable s).svl = s.svl := by
  unfold unknownTable
  rw [State.modIlc_svl]
  exact foldl_same (p := State.svl) (f := fun s e => s.modPoll e (PollDyn.softReset e (s.cfg.poll.look e) s.cfg.enabled))
    (fun _ _ => rfl) (allIx 96) s

variable {s}

theorem unknownTable_inst {e : EntryIx} (used : (s.cfg.poll.look e).used = true) : instOf (unknownTable s) e = (.unknown, 0) := by
  unfold instOf
  rw [unknownTable_pollDyn]
  unfold PollDyn.softReset
  rw [if_pos used]
  dsimp only
  split
  · unfold PollDyn.fresh
    rw [if_pos used]
  · rfl

/-- With the table enabled every used entry starts afresh, so none is late. -/
theorem unknownTable_early (on : s.cfg.enabled = true) : NoneLate (unknownTable s) (allIx 96) := fun e _ used => by
  rw [unknownTable_cfg] at used
  rw [unknownTable_pollDyn]
  unfold PollDyn.softReset
  rw [if_pos used]
  dsimp only
  rw [if_pos on]
  unfold PollDyn.fresh
  rw [if_pos used]

variable (s)

theorem resetIlc_urgent : (resetIlc s).ilc.urgent = [] := by
  rw [resetIlc_eq]
  split
  · rw [beginFrame_urgent]
    exact List.drop_nil
  · rfl

theorem resetIlc_svl : (resetIlc s).svl = s.svl := by
  rw [resetIlc_eq]
  split
  · rename_i on
    rw [unknownTable_cfg] at on
    rw [beginFrame_svl (unknownTable_early on), unknownTable_svl]
  · exact unknownTable_svl s

variable {s} in
theorem resetIlc_inst {e : EntryIx} (used : (s.cfg.poll.look e).used = true) : instOf (resetIlc s) e = (.unknown, 0) := by
  rw [resetIlc_eq]
  split
  · rw [instOf_beginFrame, unknownTable_inst used]
  · exact unknownTable_inst used

/-! ## The foreline (R74) -/

/-- The arbiter that has let go of the foreline: nobody waits, no progress counts, no pressure is known. -/
def letGo (s : State) : State := s.modFla (fun a =>
  { a with
    holder := none
    waiting := Vector.replicate 6 false
    list := a.list.map (fun p => { p with acc := 0 })
    progress := none
    pause := false
    pressure := none
    pumps := (allIx 12).foldl (fun (t : Table Valve 12) l => t.put l ((a.pumps.look l).commandClose s.now s.cfg.pumpTravel)) a.pumps })

theorem resetFla_eq : resetFla s =
    if forelineValveOpen (letGo s) then (letGo s).modFla (fun a => { a with state := .handover }) else grantDecision (letGo s) := rfl

theorem letGo_waiting (c : Chamber) : (letGo s).fla.waiting.look c = false := by
  simp [letGo, Table.look]

/-- With nobody waiting the decision is IDLE or one about the lines. -/
theorem grantDecision_letGo : grantDecision (letGo s) = toIdle (letGo s) ∨
    grantDecision (letGo s) = grantLines (letGo s).fla.list (letGo s) := by
  cases free : grantBlocked (letGo s)
  · exact .inr (grantDecision_lines free (fun c _ => letGo_waiting s c))
  · exact .inl (grantDecision_blocked free)

theorem resetFla_only : ArbiterOnly (letGo s) (resetFla s) := by
  rw [resetFla_eq]
  split
  · exact arbiterOnly_modFla (ArbiterOnly.refl _) rfl rfl
  · exact arbiterOnly_grantDecision (ArbiterOnly.refl _)

theorem grantLines_holder (ps : List PumpEntry) (c : Chamber) : (grantLines ps s).fla.holder ≠ some (.chamber c) := by
  induction ps generalizing s with
  | nil => exact (toIdle_idle s).2 ▸ nofun
  | cons p rest ih =>
    rw [grantLines_cons]
    split
    · exact ih _
    · split
      · rw [beginLine_fla]; exact nofun
      · rw [runLine_fla]; exact nofun

/-- No chamber waits for the foreline or holds it (R74). -/
theorem resetFla_chambers (c : Chamber) : (resetFla s).fla.waiting.look c = false ∧ (resetFla s).fla.holder ≠ some (.chamber c) := by
  rw [resetFla_eq]
  split
  · exact ⟨letGo_waiting s c, nofun⟩
  · rcases grantDecision_letGo s with idle | lines
    · rw [idle, (toIdle_lists _).2.2.2, (toIdle_idle _).2]
      exact ⟨letGo_waiting s c, nofun⟩
    · rw [lines, (linesOnly_grantLines _ _).waiting]
      exact ⟨letGo_waiting s c, grantLines_holder _ _ c⟩

/-! ## Its one event (R59, R74) -/

/-- Only FORELINE is posted, once at most, and no event is lost. -/
structure OneForeline (t : State) : Prop where
  atMost : t.svl.events.length ≤ 1
  only : ∀ r ∈ t.svl.events, ∃ st h p n, r.event = .foreline st h p n
  lost : t.svl.eventsLost = false

variable {s} {t : State}

theorem oneForeline_none (empty : t.svl.events = []) (lost : t.svl.eventsLost = false) : OneForeline t :=
  ⟨by simp [empty], by simp [empty], lost⟩

theorem oneForeline_post (empty : t.svl.events = []) (lost : t.svl.eventsLost = false) : OneForeline (postForeline t) := by
  unfold postForeline post
  split
  · exact oneForeline_none empty lost
  · rw [if_neg (by rw [empty]; exact Nat.not_succ_le_zero _)]
    refine ⟨by simp [empty], fun r hr => ?_, lost⟩
    rw [State.modSvl_svl, empty, List.nil_append, List.mem_singleton] at hr
    exact hr ▸ ⟨_, _, _, _, rfl⟩

theorem OneForeline.congr (h : OneForeline t) (svl : s.svl = t.svl) : OneForeline s :=
  ⟨svl ▸ h.atMost, svl ▸ h.only, svl ▸ h.lost⟩

theorem oneForeline_toIdle (empty : t.svl.events = []) (lost : t.svl.eventsLost = false) : OneForeline (toIdle t) := by
  unfold toIdle
  split
  · exact oneForeline_none empty lost
  · exact oneForeline_post empty lost

/-- Where the first line's pump-out is not complete, one line begins and no other is reached (R66). -/
theorem grantLines_first {p : PumpEntry} {rest : List PumpEntry} (runs : p.acc < pumpTimeMs s p.line) (empty : s.svl.events = [])
    (lost : s.svl.eventsLost = false) :
    OneForeline (grantLines (p :: rest) s) ∧ (grantLines (p :: rest) s).fla.list = p :: rest := by
  have begun : OneForeline (beginLine p rest s) := oneForeline_post empty lost
  have same : (runLine p rest s).svl = (beginLine p rest s).svl := by
    unfold runLine openPump
    split <;> rfl
  rw [grantLines_cons, if_neg (Nat.not_le.2 runs)]
  split
  · exact ⟨begun, by rw [beginLine_fla]⟩
  · exact ⟨begun.congr same, by rw [runLine_fla]⟩

/-- The arbiter's reset where every listed line has a pump-out time. -/
theorem resetFla_oneForeline (long : ∀ p ∈ s.fla.list, 0 < pumpTimeMs s p.line) (empty : s.svl.events = [])
    (lost : s.svl.eventsLost = false) :
    OneForeline (resetFla s) ∧ (resetFla s).fla.list = s.fla.list.map (fun p => { p with acc := 0 }) := by
  rw [resetFla_eq]
  split
  · exact ⟨oneForeline_none empty lost, rfl⟩
  · rcases grantDecision_letGo s with idle | lines
    · rw [idle, (toIdle_lists _).1]
      exact ⟨oneForeline_toIdle empty lost, rfl⟩
    · rw [lines]
      have list : (letGo s).fla.list = s.fla.list.map (fun p => { p with acc := 0 }) := rfl
      rw [← list]
      cases head : (letGo s).fla.list with
      | nil => exact ⟨oneForeline_toIdle empty lost, (toIdle_lists _).1.trans head⟩
      | cons p rest =>
        have mem : p ∈ s.fla.list.map (fun p => { p with acc := 0 }) := list ▸ head ▸ List.mem_cons_self
        obtain ⟨q, hq, rfl⟩ := List.mem_map.1 mem
        exact grantLines_first (s := letGo s) (long q hq) empty lost

end

/-! ## The whole reset -/

/-- The state the blocks' resets start from: the buffer, the events and the flags gone, the chambers reset (R24, R181). -/
def softStart (s : State) : State :=
  resetChannels ((allIx 6).foldl (fun s c => s.modCh c (Csq.softReset s.now (s.cfg.chambers.look c)))
    (s.modSvl (fun v => { v with buffer := [], events := [], linkFault := false, eventsLost := false })))

theorem softReset_eq (s : State) : softReset s = resetFla (resetIlc (resetGat (softStart s))) := rfl

/-- What the reset's start leaves of the blocks but the chambers and the channels. -/
theorem softStart_other (s : State) : (softStart s).svl =
      { s.svl with buffer := [], events := [], linkFault := false, eventsLost := false } ∧
    (softStart s).fla = s.fla ∧ (softStart s).gat = s.gat ∧ (softStart s).cfg = s.cfg := by
  have keep {β : Type} (p : State → β) (h : ∀ u c f, p (State.modCh u c f) = p u) :=
    foldl_same (p := p) (f := fun s c => s.modCh c (Csq.softReset s.now (s.cfg.chambers.look c))) (fun u c => h u c _) (allIx 6)
      (s.modSvl (fun v => { v with buffer := [], events := [], linkFault := false, eventsLost := false }))
  exact ⟨keep State.svl (fun _ _ _ => rfl), keep State.fla (fun _ _ _ => rfl), keep State.gat (fun _ _ _ => rfl),
    keep State.cfg (fun _ _ _ => rfl)⟩

theorem keeps_resetFla (s : State) : Keeps s (resetFla s) := by
  have let_go : Keeps s (letGo s) := keeps_modFla (Keeps.refl s)
  rw [resetFla_eq]
  split
  · exact keeps_modFla let_go
  · exact keeps_grantDecision let_go

/-- RSET is always accepted, and its reply is the next frame sent (R176, R181). -/
theorem exec_rset {s t : State} {f : Frame} (asks : Asks s .rset f) (reset : softReset (popFrame s) = t) (served : Served t) :
    exec .rset s = .next ((putReply f (.ack []) t).modSvl Svl.transmit) := by
  subst reset
  show Outcome.next (finish (request .rset anyBody actRset s)) = _
  rw [request_of_asks asks]
  exact congrArg Outcome.next (finish_of_served (s := putReply f (.ack []) (softReset (popFrame s))) served)

/-- What the transmitter takes of an SVL that has a reply to send: the reply, and no event (R176). -/
theorem transmit_putReply (u : State) (f : Frame) (r : ReplyBody) :
    ((putReply f r u).modSvl Svl.transmit).svl = { u.svl with
      reply := ((putReply f r u).modSvl Svl.transmit).svl.reply
      tx := ((putReply f r u).modSvl Svl.transmit).svl.tx } ∧
    (u.svl.tx = none → ((putReply f r u).modSvl Svl.transmit).svl.tx = some (replyFrame { tag := f.tag, body := r }) ∧
      ((putReply f r u).modSvl Svl.transmit).svl.reply = none) := by
  rw [State.modSvl_svl]
  cases busy : (putReply f r u).svl.tx.isSome
  · rw [Svl.transmit_reply (r := { tag := f.tag, body := r }) busy rfl]
    exact ⟨rfl, fun _ => ⟨rfl, rfl⟩⟩
  · rw [Svl.transmit_busy busy]
    refine ⟨rfl, fun idle => ?_⟩
    rw [show (putReply f r u).svl.tx = none from idle] at busy
    exact absurd busy Bool.false_ne_true

/-- What the soft reset leaves of the SVL, the gas table, the Instrument Link and the arbiter. -/
structure BlocksReset (s t : State) : Prop where
  svl : t.svl = { s.svl with buffer := [], linkFault := false, events := t.svl.events, eventsLost := t.svl.eventsLost }
  queue : t.gat.queue = []
  served : Served t
  ln : ∀ l : Line, t.ln l = LineDyn.softReset (msgsAbout l s) (s.ln l)
  inst : ∀ e : EntryIx, (s.cfg.poll.look e).used = true → instOf t e = (.unknown, 0)
  urgent : t.ilc.urgent = []
  chambers : ∀ c : Chamber, t.fla.waiting.look c = false ∧ t.fla.holder ≠ some (.chamber c)
  pause : t.fla.pause = false
  pressure : t.fla.pressure = none
  one : (∀ p ∈ s.fla.list, 0 < pumpTimeMs s p.line) → OneForeline t ∧ t.fla.list = s.fla.list.map (fun p => { p with acc := 0 })

theorem softReset_blocks (s : State) : BlocksReset s (softReset s) := by
  obtain ⟨svl₁, fla₁, gat₁, cfg₁⟩ := softStart_other s
  obtain ⟨svl₂, ilc₂, cfg₂, queue, due⟩ := resetGat_other (softStart s)
  have fla₂ := (resetGat_foreline (softStart s)).2
  have ln := resetGat_ln (softStart s)
  have about (l : Line) : msgsAbout l (softStart s) = msgsAbout l s := by rw [msgsAbout, fla₁, msgsAbout]
  have started (l : Line) : (softStart s).ln l = s.ln l := congrArg (fun g : Gat => g.lines.look l) gat₁
  rw [softReset_eq]
  generalize softStart s = u at svl₁ fla₁ gat₁ cfg₁ svl₂ ilc₂ cfg₂ queue due fla₂ ln about started ⊢
  generalize resetGat u = v at svl₂ ilc₂ cfg₂ queue due fla₂ ln ⊢
  have link := linkOnly_resetIlc v
  have svl₃ := resetIlc_svl v
  have inst (e : EntryIx) := resetIlc_inst (s := v) (e := e)
  have urgent := resetIlc_urgent v
  generalize resetIlc v = w at link svl₃ inst urgent ⊢
  have only := resetFla_only w
  have cfg : w.cfg = s.cfg := link.cfg.trans (cfg₂.trans cfg₁)
  have svl : w.svl = { s.svl with buffer := [], events := [], linkFault := false, eventsLost := false } :=
    svl₃.trans (svl₂.trans svl₁)
  have list : w.fla.list = s.fla.list := by rw [link.fla, fla₂, fla₁]
  have gat : (resetFla w).gat = v.gat := only.gat.trans link.gat
  constructor
  case svl => rw [(keeps_resetFla w).svl, svl]
  case queue => rw [gat, queue]
  case served => exact (congrArg Gat.serviceDue gat).trans due
  case ln =>
    intro l
    rw [← about, ← started, ← ln]
    exact congrArg (fun g : Gat => g.lines.look l) gat
  case inst =>
    intro e used
    rw [instOf_of_ilc only.ilc]
    exact inst e (by rwa [cfg₂, cfg₁])
  case urgent => exact (congrArg Ilc.urgent only.ilc).trans urgent
  case chambers => exact resetFla_chambers w
  case pause => exact only.pause
  case pressure => exact only.pressure
  case one =>
    intro long
    have long' : ∀ p ∈ w.fla.list, 0 < pumpTimeMs w p.line := by
      unfold pumpTimeMs at long ⊢
      rwa [list, cfg]
    rw [← list]
    exact resetFla_oneForeline long' (by rw [svl]) (by rw [svl])

/-- Settles O38: each block's reset by its own lemma (resetGat_ln, resetIlc_inst, resetFla_oneForeline), none of which later blocks
undo; no entry is late after it, so the frame that begins posts nothing (beginFrame_svl). -/
theorem softResetOfOtherBlocks : Obligations.SoftResetOfOtherBlocks := by
  intro s f asks
  have reset := softReset_blocks (popFrame s)
  have ends := exec_rset asks rfl reset.served
  generalize softReset (popFrame s) = u at reset ends
  obtain ⟨svl, replied⟩ := transmit_putReply u f (.ack [])
  generalize ht : (putReply f (.ack []) u).modSvl Svl.transmit = t at svl replied ends
  have gat : t.gat = u.gat := ht ▸ rfl
  have fla : t.fla = u.fla := ht ▸ rfl
  have ilc : t.ilc = u.ilc := ht ▸ rfl
  have ln (l : Line) : t.ln l = LineDyn.softReset (msgsAbout l s) (s.ln l) :=
    (congrArg (fun g : Gat => g.lines.look l) gat).trans (reset.ln l)
  refine ⟨t, ends, ?_, ?_, fun long => ?_, ?_, fun idle => ?_, ?_, fun l => ?_, fun l quiet idle => ?_, fun c => ?_, fun c => ?_, ?_, ?_,
    fun e used => ?_, ?_⟩
  · rw [svl, reset.svl]
  · rw [svl, reset.svl]
  · obtain ⟨one, list⟩ := reset.one long
    have events : t.svl.events = u.svl.events := by rw [svl]
    exact ⟨events ▸ one.atMost, events ▸ one.only, by rw [svl]; exact one.lost, fla ▸ list⟩
  · rw [svl, reset.svl]
    rfl
  · exact replied (by rw [reset.svl]; exact idle)
  · rw [gat, reset.queue]
  · rw [ln]
    exact softReset_ne_pumpingOut _ _
  · rw [ln, msgsAbout, quiet]
    exact softReset_idle idle
  · rw [fla]
    exact (reset.chambers c).1
  · rw [fla]
    exact (reset.chambers c).2
  · rw [fla, reset.pause]
  · rw [fla, reset.pressure]
  · have inst := (instOf_of_ilc ilc ▸ reset.inst e used : instOf t e = (.unknown, 0))
    exact ⟨congrArg Prod.fst inst, congrArg Prod.snd inst⟩
  · rw [ilc, reset.urgent]

end Sys2Proof.Machine
end

section
namespace Sys2Proof.Machine

open Host (Outcome)

/-! # The end of a transaction (R144, R145) -/

/-! ## Channels: a built transaction moves only what is sent (R101) -/

/-- A channel without the command that its builds ramp. -/
def steadyOf (s : State) (c : Chamber) (k : Channel) : ChanCtx := { s.chan c k with current := 0, lastSent := 0 }

section
variable {s t : State}

theorem steadyOf_of_fcu (h : t.fcu = s.fcu) : steadyOf t = steadyOf s := by
  funext c k
  simp only [steadyOf, State.chan, h]

theorem steadyOf_rampUpdate (d : Chamber) (j : Channel) (s : State) : steadyOf (rampUpdate d j s) = steadyOf s := by
  funext c k
  unfold steadyOf rampUpdate
  rw [State.modChan_chan]
  split
  · rename_i same
    obtain ⟨rfl, rfl⟩ := same
    rfl
  · rfl

theorem steadyOf_buildTxn (e : EntryIx) (s : State) : steadyOf (buildTxn e s) = steadyOf s := by
  have ramped (p : PollCfg) (u : State) : steadyOf (buildRamp p u) = steadyOf u := by
    unfold buildRamp
    split
    · exact steadyOf_rampUpdate _ _ u
    · rfl
  unfold buildTxn
  exact (steadyOf_of_fcu rfl).trans ((ramped _ _).trans (steadyOf_of_fcu rfl))

theorem steadyOf_buildNext (s : State) : steadyOf (buildNext s) = steadyOf s := by
  unfold buildNext
  split
  · rfl
  · exact (steadyOf_buildTxn _ _).trans (steadyOf_of_fcu rfl)

theorem steadyOf_modIlc (f : Ilc → Ilc) (s : State) : steadyOf (s.modIlc f) = steadyOf s := rfl

theorem steadyOf_countLate (e : EntryIx) (s : State) : steadyOf (countLate e s) = steadyOf s := by
  refine steadyOf_of_fcu ?_
  unfold countLate
  dsimp only
  split
  · exact post_fcu _ _
  · rfl

theorem steadyOf_beginFrame (s : State) : steadyOf (beginFrame s) = steadyOf s := by
  have ticked : steadyOf (tickCountdowns s) = steadyOf s := by
    unfold tickCountdowns
    refine foldl_same (p := steadyOf) (fun u e => ?_) _ s
    exact steadyOf_of_fcu rfl
  unfold beginFrame
  dsimp only
  rw [steadyOf_buildNext, foldl_same (p := steadyOf), steadyOf_modIlc, ticked]
  intro u e
  split
  · exact steadyOf_countLate e u
  · rfl

theorem steadyOf_endTxn (s : State) : steadyOf (endTxn s) = steadyOf s := by
  have built : steadyOf (buildNext (s.modIlc (fun i => { i with inFlight := none }))) = steadyOf s :=
    (steadyOf_buildNext _).trans (steadyOf_of_fcu rfl)
  unfold endTxn
  dsimp only
  split
  · exact (steadyOf_beginFrame _).trans built
  · exact built

end

/-! ## Numbers: what is in flight after a transaction was built after it (notes/assumptions/50.md) -/

/-- The number in flight, if any, is not below a bound, and neither is the next to be given. -/
def FreshFrom (b : Nat) (x : Option Nat × Nat) : Prop := b ≤ x.2 ∧ ∀ n, x.1 = some n → b ≤ n

theorem freshFrom_none (n : Nat) : FreshFrom n (none, n) := ⟨Nat.le_refl n, nofun⟩

theorem FreshFrom.buildNext {b : Nat} {s : State} (h : FreshFrom b (flightOf s)) : FreshFrom b (flightOf (buildNext s)) := by
  unfold Machine.buildNext
  split
  · exact h
  · rw [flightOf_buildTxn]
    refine ⟨Nat.le_succ_of_le h.1, fun n e => ?_⟩
    cases e
    exact h.1

theorem FreshFrom.beginFrame {b : Nat} {s : State} (h : FreshFrom b (flightOf s)) : FreshFrom b (flightOf (beginFrame s)) := by
  have built : (tickCountdowns s).ilc.built = s.ilc.built := congrArg Prod.snd (flightOf_tickCountdowns s)
  unfold Machine.beginFrame
  dsimp only
  refine FreshFrom.buildNext ?_
  rw [flightOf_foldl _ (fun u e => by simp)]
  generalize tickCountdowns s = t at built ⊢
  exact ⟨h.1.trans_eq built.symm, nofun⟩

theorem endTxn_fresh (s : State) : FreshFrom s.ilc.built (flightOf (endTxn s)) := by
  have built : FreshFrom s.ilc.built (flightOf (buildNext (s.modIlc (fun i => { i with inFlight := none })))) :=
    (freshFrom_none s.ilc.built).buildNext
  unfold endTxn
  dsimp only
  split
  · exact built.beginFrame
  · exact built

/-! ## A reply taken, or missed -/

/-- How the event of a reply that is not discarded ends: the service run it owes, the next transaction, the transmitter. -/
def replied (s : State) : State := finish (endTxn (runService s))

section
variable (s : State)

theorem runService_served : Served (runService s) := by
  unfold runService
  split
  · rfl
  · rename_i due
    exact Bool.eq_false_iff.2 due

/-- The end of a transaction leaves no service owed. -/
theorem finish_endTxn {s : State} (served : Served s) :
    Served (endTxn s) ∧ finish (endTxn s) = (endTxn s).modSvl Svl.transmit := by
  have still : Served (endTxn s) := (congrArg Gat.serviceDue (linkOnly_endTxn (LinkOnly.refl s)).gat).trans served
  exact ⟨still, finish_of_served still⟩

theorem linkOnly_finish_endTxn {s : State} (served : Served s) : LinkOnly s (finish (endTxn s)) := by
  rw [(finish_endTxn served).2]
  exact linkOnly_modSvl (linkOnly_endTxn (LinkOnly.refl s))

theorem instOf_finish_endTxn {s : State} (served : Served s) : instOf (finish (endTxn s)) = instOf s := by
  rw [(finish_endTxn served).2]
  exact instOf_endTxn s

theorem linkOnly_replied : LinkOnly (runService s) (replied s) := linkOnly_finish_endTxn (runService_served s)

theorem linkOnly_replied_of_served {s : State} (served : Served s) : LinkOnly s (replied s) := by
  have link := linkOnly_replied s
  rwa [runService_of_served served] at link

theorem instOf_replied : instOf (replied s) = instOf s := by
  have poll : (runService s).ilc.poll = s.ilc.poll := (quiet_runService (Quiet.refl s)).2.1
  rw [replied, instOf_finish_endTxn (runService_served s)]
  funext e
  simp only [instOf, State.pollDyn, poll]

theorem replied_lines : (replied s).gat.lines = s.gat.lines :=
  (congrArg Gat.lines (linkOnly_replied s).gat).trans (quiet_runService (Quiet.refl s)).1

theorem steadyOf_replied : steadyOf (replied s) = steadyOf (runService s) := by
  rw [replied, (finish_endTxn (runService_served s)).2]
  exact (steadyOf_of_fcu rfl).trans (steadyOf_endTxn _)

theorem keeps_replied : (replied s).cfg = s.cfg ∧ (replied s).iiu = s.iiu := by
  have link := linkOnly_replied s
  have keep := keeps_runService (Keeps.refl s)
  exact ⟨link.cfg.trans keep.cfg, link.iiu.trans keep.iiu⟩

end

/-! ## A faulted chamber after the service run -/

section
variable {s t : State} {c : Chamber} {cause : Result}

theorem FaultedWith.congr (h : FaultedWith s c cause) (ch : t.ch c = s.ch c)
    (target : ∀ k, (t.chan c k).target = (s.chan c k).target) (out : Out t c) : FaultedWith t c cause where
  state := ch ▸ h.state
  phase := ch ▸ h.phase
  cause := ch ▸ h.cause
  noStep := ch ▸ h.noStep
  rf := ch ▸ h.rf
  flows k := (target k).trans (h.flows k)
  throttle := ch ▸ h.throttle
  valves := ch ▸ h.valves
  holdings := ch ▸ h.holdings
  queue := out.queue
  foreline := ⟨out.waiting, out.holder⟩
  notHighvac := ch ▸ h.notHighvac

/-- A chamber that waits for nothing stays as the reply left it. -/
theorem replied_out (out : Out s c) :
    (replied s).ch c = s.ch c ∧ (∀ k, ((replied s).chan c k).target = (s.chan c k).target) ∧ Out (replied s) c := by
  obtain ⟨⟨same, chans⟩, still⟩ := apart_runService (Apart.refl c s) out
  have link := linkOnly_replied s
  refine ⟨(ch_of_csq c _ link.csq).trans same, fun k => ?_, ⟨?_, ?_, ?_⟩⟩
  · have steady : (steadyOf (replied s) c k).target = (steadyOf (runService s) c k).target := by rw [steadyOf_replied]
    exact steady.trans (congrArg ChanCtx.target (chans k) : ((runService s).chan c k).target = _)
  · rw [link.gat]; exact still.queue
  · rw [link.fla]; exact still.waiting
  · rw [link.fla]; exact still.holder

/-- What an instrument's failure leaves of a chamber that takes the fault (R15, R151). -/
theorem faultChamber_replied (alive : (s.ch c).state ≠ .offline ∧ (s.ch c).state ≠ .faulted) :
    FaultedWith (replied (faultChamber c .instrument s)) c .instrument ∧
    ∀ e, (s.ch c).state = .running → (s.ch c).exec = some e →
      ReportedAs (replied (faultChamber c .instrument s)) c e.record.id .instrument := by
  obtain ⟨faulted, _, _, out, reported⟩ := faultChamber_faulted c .instrument s nofun alive
  obtain ⟨ch, target, still⟩ := replied_out out
  refine ⟨faulted.congr ch target still, fun e running step => ?_⟩
  unfold ReportedAs
  rw [ch]
  exact reported e running step

end

end Sys2Proof.Machine
end

section
namespace Sys2Proof.Machine

open Host (Outcome)

/-! # The foreline gauge (R64, R69, R151) -/

/-- The foreline pressure and the backing pause: what the gauge tells the arbiter. -/
def gaugeOf (s : State) : Option Nat × Bool := (s.fla.pressure, s.fla.pause)

section
variable {s t : State}

theorem gaugeOf_of_fla (h : t.fla = s.fla) : gaugeOf t = gaugeOf s := by rw [gaugeOf, h, gaugeOf]

theorem gaugeOf_of_foreline (h : forelineOf t = forelineOf s) : gaugeOf t = gaugeOf s :=
  gaugeOf_of_fla (congrArg Prod.fst h)

theorem ArbiterOnly.gauge (h : ArbiterOnly s t) : gaugeOf t = gaugeOf s := by rw [gaugeOf, h.pressure, h.pause, gaugeOf]

theorem gaugeOf_ite {p : Prop} [Decidable p] {u : State} (yes : gaugeOf t = gaugeOf s) (no : gaugeOf u = gaugeOf s) :
    gaugeOf (if p then t else u) = gaugeOf s := by
  split
  · exact yes
  · exact no

variable (s)

theorem gaugeOf_leaveForeline (c : Chamber) : gaugeOf (leaveForeline c s) = gaugeOf s := by
  unfold leaveForeline releaseForeline
  split
  · exact (arbiterOnly_vacate (arbiterOnly_modFla (ArbiterOnly.refl s) rfl rfl)).gauge
  · rfl

theorem gaugeOf_closeRough (c : Chamber) : gaugeOf (closeRough c s) = gaugeOf s :=
  gaugeOf_of_fla (chamberOnly_closeRough (ChamberOnly.refl c s)).fla

theorem gaugeOf_faultChamber (c : Chamber) (cause : Result) : gaugeOf (faultChamber c cause s) = gaugeOf s := by
  unfold faultChamber
  refine gaugeOf_ite rfl ((gaugeOf_leaveForeline _ c).trans ?_)
  generalize hu : setThrottle c .open _ = u
  have before : forelineOf u = forelineOf s := hu ▸ by simp
  have closed := (gaugeOf_closeRough u c).trans (gaugeOf_of_foreline before)
  exact (gaugeOf_of_foreline (by simp)).trans closed

theorem gaugeOf_withTargets (c : Chamber) (want : Channel → Nat) {g : State → State} (hg : ∀ u, forelineOf (g u) = forelineOf u) :
    gaugeOf (withTargets c want g s) = gaugeOf s :=
  gaugeOf_ite (gaugeOf_faultChamber s c _) (gaugeOf_of_foreline (by simp [hg]))

theorem gaugeOf_enterPurge (c : Chamber) (r : StepRec) : gaugeOf (enterPurge c r s) = gaugeOf s := by
  unfold enterPurge
  exact (gaugeOf_withTargets _ c _ (by simp)).trans (gaugeOf_of_foreline (by simp))

theorem gaugeOf_enterWork (c : Chamber) (r : StepRec) : gaugeOf (enterWork c r s) = gaugeOf s := by
  unfold enterWork
  exact gaugeOf_ite ((gaugeOf_withTargets _ c _ (by simp)).trans (gaugeOf_of_foreline (by simp)))
    ((gaugeOf_withTargets _ c _ (by simp)).trans (gaugeOf_of_foreline (by simp)))

theorem gaugeOf_admitChamber (c : Chamber) (rq : Request) : gaugeOf (admitChamber c rq s) = gaugeOf s := by
  unfold admitChamber
  split
  · rfl
  · exact gaugeOf_ite ((gaugeOf_enterPurge _ c _).trans (gaugeOf_of_foreline (by simp)))
      ((gaugeOf_enterWork _ c _).trans (gaugeOf_of_foreline (by simp)))

theorem gaugeOf_tryAdmit (c : Chamber) : gaugeOf (tryAdmit c s).1 = gaugeOf s := by
  unfold tryAdmit
  split
  · split
    · rfl
    · split
      · exact gaugeOf_admitChamber s c _
      · rfl
  · rfl

theorem gaugeOf_servicePass (xs : List Chamber) : gaugeOf (servicePass xs s).1 = gaugeOf s := by
  induction xs generalizing s with
  | nil => rfl
  | cons c rest ih => exact (ih _).trans (gaugeOf_tryAdmit s c)

theorem gaugeOf_serviceRuns (n : Nat) : gaugeOf (serviceRuns n s) = gaugeOf s := by
  induction n generalizing s with
  | zero => rfl
  | succ n ih =>
    have passed := gaugeOf_servicePass s s.gat.queue
    exact gaugeOf_ite ((ih _).trans passed) passed

theorem gaugeOf_runService : gaugeOf (runService s) = gaugeOf s :=
  gaugeOf_ite ((gaugeOf_of_fla rfl).trans (gaugeOf_ite rfl (gaugeOf_serviceRuns s 7))) rfl

theorem gaugeOf_replied : gaugeOf (replied s) = gaugeOf s :=
  (gaugeOf_of_fla (linkOnly_replied s).fla).trans (gaugeOf_runService s)

end

end Sys2Proof.Machine
end

section
namespace Sys2Proof.Machine

open Host (Outcome)

/-! # A missed reply (R145, R150, R151) -/

/-! ## What a failure takes from its owner -/

/-- A chamber without the reading of an entry that failed: the two gauges' and the pressure chosen from them (R18, R151). -/
structure Forgotten (c : Chamber) (r : Role) (s t : State) : Prop where
  others : ∀ d : Chamber, d ≠ c → t.ch d = s.ch d
  ch : t.ch c = { s.ch c with
    processReading := (t.ch c).processReading, wideReading := (t.ch c).wideReading, pressure := (t.ch c).pressure }
  process : r = .gaugeProcess → (t.ch c).processReading = none
  wide : r = .gaugeWide → (t.ch c).wideReading = none
  flow : ∀ k : Channel, r = .flow k → (t.chan c k).lastTime = none ∧ (t.chan c k).deviation = none
  fla : t.fla = s.fla
  gat : t.gat = s.gat
  ilc : t.ilc = s.ilc
  iiu : t.iiu = s.iiu
  cfg : t.cfg = s.cfg

theorem forgetReading_forgotten (c : Chamber) (r : Role) (s : State) : Forgotten c r s (forgetReading c r s) := by
  cases r with
  | gaugeProcess => constructor <;> simp +contextual [forgetReading, choosePressure, Ne.symm]
  | gaugeWide => constructor <;> simp +contextual [forgetReading, choosePressure, Ne.symm]
  | flow k => constructor <;> simp +contextual [forgetReading]
  | throttle | source | bias | foreline => constructor <;> simp [forgetReading]

/-- The FORELINE entry's failure takes the pressure and the pause away (R69). -/
def gaugeLost (s : State) : State :=
  if s.fla.pause then postForeline ((s.modFla (fun a => { a with pressure := none })).modFla (fun a => { a with pause := false }))
  else s.modFla (fun a => { a with pressure := none })

theorem forelineFailed_eq (s : State) : forelineFailed s =
    match (gaugeLost s).fla.holder with
    | some (.chamber c) => faultChamber c .instrument (gaugeLost s)
    | some (.line _) => yieldPumpout (gaugeLost s)
    | none => gaugeLost s := rfl

section
variable (s : State)

theorem gaugeLost_fla : (gaugeLost s).fla = { s.fla with pressure := none, pause := false } := by
  unfold gaugeLost
  cases paused : s.fla.pause
  · show ({ s.fla with pressure := none } : Fla) = { s.fla with pressure := none, pause := false }
    rw [← paused]
  · simp [postForeline]

theorem gaugeLost_other : (gaugeLost s).csq = s.csq ∧ (gaugeLost s).gat = s.gat ∧ (gaugeLost s).ilc = s.ilc ∧
    (gaugeLost s).now = s.now ∧ (gaugeLost s).cfg = s.cfg := by
  unfold gaugeLost
  split <;> simp [postForeline]

theorem quiet_forelineFailed {σ τ : State} (quiet : Quiet σ τ) : Quiet σ (forelineFailed τ) := by
  unfold forelineFailed
  have unread : Quiet σ (τ.modFla (fun a => { a with pressure := none })) := quiet_modFla quiet
  have told : Quiet σ (if (τ.modFla (fun a => { a with pressure := none })).fla.pause then
      postForeline ((τ.modFla (fun a => { a with pressure := none })).modFla (fun a => { a with pause := false }))
      else τ.modFla (fun a => { a with pressure := none })) := by
    split
    · exact quiet_postForeline (quiet_modFla unread)
    · exact unread
  dsimp only
  split
  · exact quiet_faultChamber told _ _
  · exact quiet_yieldPumpout told
  · exact told

theorem gaugeOf_yieldPumpout : gaugeOf (yieldPumpout s) = gaugeOf s := by
  unfold yieldPumpout
  split
  · rename_i l _
    have stopped : ArbiterOnly s (sendGat .stopped l (closePump l (stopProgress s))) := by
      have kept : ArbiterOnly s (stopProgress s) := by
        unfold stopProgress
        split <;> exact arbiterOnly_modFla (ArbiterOnly.refl s) rfl rfl
      unfold sendGat closePump modPump
      exact arbiterOnly_modFla (arbiterOnly_modFla kept rfl rfl) rfl rfl
    exact (arbiterOnly_vacate stopped).gauge
  · rfl

theorem gaugeOf_forelineFailed : gaugeOf (forelineFailed s) = (none, false) := by
  have lost : gaugeOf (gaugeLost s) = (none, false) := by rw [gaugeOf, gaugeLost_fla]
  rw [forelineFailed_eq, ← lost]
  split
  · exact gaugeOf_faultChamber _ _ _
  · exact gaugeOf_yieldPumpout _
  · rfl

end

/-- A line that pumps out stops, and its pump valve is closing (R58, R67). -/
theorem yieldPumpout_open {s : State} {l : Line} (holds : s.fla.holder = some (.line l))
    (counts : (s.fla.pumps.look l).countsOpen = true) :
    (yieldPumpout s).csq = s.csq ∧ (yieldPumpout s).gat = s.gat ∧ (yieldPumpout s).fla.state = .handover ∧
    (yieldPumpout s).fla.holder = none ∧
    (yieldPumpout s).fla.pumps.look l = (s.fla.pumps.look l).commandClose s.now s.cfg.pumpTravel ∧
    (yieldPumpout s).fla.toGat = s.fla.toGat ++ [(PumpMsg.stopped, l)] := by
  have yields : yieldPumpout s = vacate (sendGat .stopped l (closePump l (stopProgress s))) := by
    unfold yieldPumpout
    rw [holds]
  have stopped : stopProgress s = s.modFla (fun a =>
      { a with list := a.list.map (fun p => if p.line = l then { p with acc := p.progress s } else p), progress := none }) := by
    unfold stopProgress
    rw [holds]
  have open_ : forelineValveOpen ((sendGat .stopped l (closePump l (stopProgress s))).modFla
      (fun a => { a with holder := none, progress := none })) = true := by
    refine Bool.not_eq_false _ ▸ fun shut => ?_
    have closed := (forelineValveOpen_eq_false.1 shut).2 l
    rw [stopped] at closed
    simp [sendGat, closePump, modPump, counts] at closed
  rw [yields, vacate, if_pos open_, stopped]
  simp [postForeline, sendGat, closePump, modPump]

/-! ## The miss -/

/-- The entry declared FAILED, before its owner is told (R150). -/
def failedInst (e : EntryIx) (s : State) : State :=
  postInstr e (s.cfg.poll.look e) .failed .misses
    ((s.modPoll e (fun x => { x with misses := Config.missLimit })).modPoll e (fun x => { x with state := .failed }))

section
variable {s : State} {e : EntryIx}

theorem failedInst_inst : instOf (failedInst e s) e = (.failed, Config.missLimit) := by
  unfold failedInst postInstr
  rw [instOf_post]
  simp [instOf]

theorem linkOnly_failedInst (e : EntryIx) (s : State) : LinkOnly s (failedInst e s) :=
  linkOnly_post (linkOnly_modPoll (linkOnly_modPoll (LinkOnly.refl s))) _

theorem missReply_failed (failed : (s.pollDyn e).state = .failed) :
    missReply e s = s.modPoll e (fun x => { x with misses := Config.missLimit }) := by
  unfold missReply
  exact if_pos failed

theorem missReply_counts (h : (s.pollDyn e).state ≠ .failed) (few : (s.pollDyn e).misses + 1 < Config.missLimit) :
    missReply e s = s.modPoll e (fun x => { x with misses := (s.pollDyn e).misses + 1 }) := by
  unfold missReply
  exact (if_neg h).trans (if_pos few)

variable (h : (s.pollDyn e).state ≠ .failed) (third : Config.missLimit ≤ (s.pollDyn e).misses + 1)
include h third

theorem missReply_third : ∃ old, missReply e s = ownerReport (s.cfg.poll.look e) old .failed (failedInst e s) := by
  refine ⟨((s.modPoll e (fun x => { x with misses := Config.missLimit })).pollDyn e).state, ?_⟩
  unfold missReply
  exact (if_neg h).trans (if_neg (Nat.not_lt.2 third))

theorem missReply_chamber {c : Chamber} {role : Role} (owner : ownerOf (s.cfg.poll.look e).owner = some (.chamber c))
    (hr : roleOf (s.cfg.poll.look e).role = some role) :
    missReply e s = faultChamber c .instrument (forgetReading c role (failedInst e s)) := by
  obtain ⟨old, eq⟩ := missReply_third h third
  rw [eq]
  unfold ownerReport
  rw [owner, hr]
  rfl

theorem missReply_foreline (owner : ownerOf (s.cfg.poll.look e).owner = some .tool)
    (hr : roleOf (s.cfg.poll.look e).role = some .foreline) : missReply e s = forelineFailed (failedInst e s) := by
  obtain ⟨old, eq⟩ := missReply_third h third
  rw [eq]
  unfold ownerReport
  rw [owner, hr]

end

/-- A missed reply's command: the window's end, or a reply that does not judge valid (R145). -/
def Misses (s : State) (x : Txn) (role : Role) (i : Instr) : Prop :=
  i = .responseWindowExpiry ∨
    ∃ bs, i = .instrumentReply bs ∧ bs.txn = x.number ∧ judgeReply (s.cfg.poll.look x.entry) role bs.bytes = none

theorem exec_miss {s : State} {x : Txn} {role : Role} {i : Instr} (flight : s.ilc.inFlight = some x) (live : x.discarded = false)
    (hr : roleOf (s.cfg.poll.look x.entry).role = some role) (miss : Misses s x role i) :
    exec i s = .next (replied (missReply x.entry s)) := by
  rcases miss with rfl | ⟨bs, rfl, number, bad⟩
  · show Outcome.next (finish _) = _
    rw [flight]
    simp only [live, Bool.false_eq_true, if_false]
    rfl
  · have awaited : s.ilc.awaits bs.txn = some x := by simp [Ilc.awaits, flight, number]
    have taken : takeReply x bs.bytes s = missReply x.entry s := by
      unfold takeReply
      simp only [hr, bad]
    show Outcome.next (finish _) = _
    rw [awaited]
    simp only [live, Bool.false_eq_true, if_false, taken]
    rfl

/-! ## With nothing to judge -/

theorem awaits_eq_some {i : Ilc} {n : Nat} {x : Txn} (h : i.awaits n = some x) : i.inFlight = some x ∧ x.number = n := by
  simpa [Ilc.awaits, Option.filter_eq_some_iff] using h

section
variable {s : State} (served : Served s)
include served

theorem idles_reply {bs : BusReply} (h : ∀ x, s.ilc.awaits bs.txn = some x → x.discarded = true) :
    Idles (.instrumentReply bs) s := by
  show Outcome.next (finish _) = _
  rw [← finish_of_served served]
  refine congrArg (fun u => Outcome.next (finish u)) (?_ : _ = s)
  split
  · rfl
  · rename_i x awaited
    exact if_pos (h x awaited)

theorem idles_window (none : s.ilc.inFlight = none) : Idles .responseWindowExpiry s := by
  show Outcome.next (finish _) = _
  rw [none, finish_of_served served]

end

end Sys2Proof.Machine
end

section
namespace Sys2Proof.Machine

open Host (Outcome)

/-! # Missed replies and discarded transactions (R69, R144, R145, R150, R151) -/

theorem inst_of {t : State} {e : EntryIx} {st : InstState} {n : Nat} (h : instOf t e = (st, n)) :
    (t.pollDyn e).misses = n ∧ (t.pollDyn e).state = st := ⟨congrArg Prod.snd h, congrArg Prod.fst h⟩

section
variable {s : State} {e : EntryIx}

/-- A miss that tells nobody changes only the entry (R150). -/
theorem replied_modPoll (served : Served s) (e : EntryIx) (f : PollDyn → PollDyn) :
    LinkOnly s (replied (s.modPoll e f)) ∧
    instOf (replied (s.modPoll e f)) e = ((f (s.pollDyn e)).state, (f (s.pollDyn e)).misses) := by
  refine ⟨(linkOnly_modPoll (LinkOnly.refl s)).trans (linkOnly_replied_of_served (s := s.modPoll e f) served), ?_⟩
  rw [instOf_replied, instOf, State.modPoll_pollDyn, if_pos rfl]

/-! ## The window's end -/

/-- The window of a transaction ends it, discarded or not: what is in flight after it was built after it. -/
theorem exec_window {x : Txn} (flight : s.ilc.inFlight = some x) (served : Served s) :
    ∃ u, exec .responseWindowExpiry s = .next (finish (endTxn u)) ∧ Served u ∧ u.ilc.built = s.ilc.built ∧
      (x.discarded = true → u = s) := by
  have ends : exec .responseWindowExpiry s =
      .next (finish (endTxn (if x.discarded then s else runService (missReply x.entry s)))) := by
    show Outcome.next (finish _) = _
    rw [flight]
  refine ⟨_, ends, ?_⟩
  split
  · exact ⟨served, rfl, fun _ => rfl⟩
  · rename_i live
    refine ⟨runService_served _, ?_, fun gone => absurd gone live⟩
    exact congrArg Prod.snd (by simp : flightOf (runService (missReply x.entry s)) = flightOf s)

theorem late_reply_idles {t : State} {x : Txn} (served : Served s) (flight : s.ilc.inFlight = some x)
    (old : x.number < s.ilc.built) (ends : exec .responseWindowExpiry s = .next t) {bs : BusReply} (number : bs.txn = x.number) :
    Idles (.instrumentReply bs) t := by
  obtain ⟨u, ends', servedU, built, _⟩ := exec_window flight served
  obtain rfl : finish (endTxn u) = t := Outcome.next.inj (ends'.symm.trans ends)
  obtain ⟨still, eq⟩ := finish_endTxn servedU
  rw [eq]
  refine idles_reply (s := (endTxn u).modSvl Svl.transmit) still (fun y awaited => ?_)
  obtain ⟨inFlight, hy⟩ := awaits_eq_some awaited
  have fresh := (endTxn_fresh u).2 y.number (congrArg (Option.map Txn.number) inFlight)
  omega

/-! ## A discarded transaction -/

theorem buildNext_cons {s : State} {e : EntryIx} {rest : List EntryIx} (h : s.ilc.frameRest = e :: rest) :
    buildNext s = buildTxn e (s.modIlc (fun i => { i with frameRest := rest })) := by
  unfold buildNext
  rw [h]

theorem buildTxn_ilc (e : EntryIx) (s : State) : (buildTxn e s).ilc.frameRest = s.ilc.frameRest ∧
    ∃ y, (buildTxn e s).ilc.inFlight = some y ∧ y.entry = e ∧ y.discarded = false := by
  refine ⟨?_, _, rfl, rfl, rfl⟩
  show (buildRamp _ _).ilc.frameRest = _
  rw [buildRamp_ilc]
  rfl

/-- The next entry of the list is built as soon as a transaction ends (R144). -/
theorem endTxn_cons {rest : List EntryIx} (h : s.ilc.frameRest = e :: rest) : (endTxn s).ilc.frameRest = rest ∧
    ∃ y, (endTxn s).ilc.inFlight = some y ∧ y.entry = e ∧ y.discarded = false := by
  have built : buildNext (s.modIlc (fun i => { i with inFlight := none })) =
      buildTxn e ((s.modIlc (fun i => { i with inFlight := none })).modIlc (fun i => { i with frameRest := rest })) :=
    buildNext_cons h
  obtain ⟨left, y, flight, fresh⟩ := buildTxn_ilc e
    ((s.modIlc (fun i => { i with inFlight := none })).modIlc (fun i => { i with frameRest := rest }))
  have waits : frameMayBegin (buildNext (s.modIlc (fun i => { i with inFlight := none }))) = false := by
    rw [built, frameMayBegin, flight]
    simp
  unfold endTxn
  dsimp only
  rw [waits, built]
  exact ⟨left, y, flight, fresh⟩

/-- With an empty list nothing is in flight until the next frame may begin (R146). -/
theorem endTxn_nil (h : s.ilc.frameRest = []) (early : s.cfg.enabled = false ∨ s.now < s.ilc.frameAt + 10) :
    (endTxn s).ilc.inFlight = none := by
  have built : buildNext (s.modIlc (fun i => { i with inFlight := none })) = s.modIlc (fun i => { i with inFlight := none }) := by
    unfold buildNext
    rw [show (s.modIlc (fun i => { i with inFlight := none })).ilc.frameRest = [] from h]
  have waits : frameMayBegin (s.modIlc (fun i => { i with inFlight := none })) = false := by
    refine Bool.eq_false_iff.2 (fun may => ?_)
    simp only [frameMayBegin, Bool.and_eq_true, decide_eq_true_eq] at may
    obtain ⟨⟨⟨enabled, _⟩, _⟩, passed⟩ := may
    rcases early with off | soon
    · exact absurd (off.symm.trans enabled) Bool.false_ne_true
    · exact absurd passed (Nat.not_le.2 soon)
  unfold endTxn
  dsimp only
  rw [built, waits]
  rfl

theorem discarded_ends {x : Txn} (served : Served s) (flight : s.ilc.inFlight = some x) (gone : x.discarded = true) :
    ∃ t, exec .responseWindowExpiry s = .next t ∧ t.csq = s.csq ∧ t.fla = s.fla ∧ t.gat = s.gat ∧ t.iiu = s.iiu ∧
      t.cfg = s.cfg ∧ t.now = s.now ∧
      (∀ e : EntryIx, (t.pollDyn e).state = (s.pollDyn e).state ∧ (t.pollDyn e).misses = (s.pollDyn e).misses) ∧
      (∀ e rest, s.ilc.frameRest = e :: rest → t.ilc.frameRest = rest ∧
        ∃ y, t.ilc.inFlight = some y ∧ y.entry = e ∧ y.discarded = false) ∧
      (s.ilc.frameRest = [] → (s.cfg.enabled = false ∨ s.now < s.ilc.frameAt + 10) → t.ilc.inFlight = none) := by
  obtain ⟨u, ends, _, _, same⟩ := exec_window flight served
  rw [same gone] at ends
  have link := linkOnly_finish_endTxn served
  have inst := instOf_finish_endTxn served
  have ilc : (finish (endTxn s)).ilc = (endTxn s).ilc := by
    rw [(finish_endTxn served).2]
    rfl
  refine ⟨_, ends, link.csq, link.fla, link.gat, link.iiu, link.cfg, link.now, fun e => ?_, fun e rest h => ?_, fun h early => ?_⟩
  · exact ⟨congrArg Prod.fst (congrFun inst e), congrArg Prod.snd (congrFun inst e)⟩
  · rw [ilc]
    exact endTxn_cons h
  · rw [ilc]
    exact endTxn_nil h early

end

/-! ## The third miss of a chamber's entry -/

section
variable {s : State} {e : EntryIx} {c : Chamber} {role : Role} (h : (s.pollDyn e).state ≠ .failed)
  (third : Config.missLimit ≤ (s.pollDyn e).misses + 1) (owner : ownerOf (s.cfg.poll.look e).owner = some (.chamber c))
  (hr : roleOf (s.cfg.poll.look e).role = some role)
include h third owner hr

/-- The entry is FAILED whatever its chamber makes of it. -/
theorem chamberMiss_frame : instOf (replied (missReply e s)) e = (.failed, Config.missLimit) ∧
    (replied (missReply e s)).gat.lines = s.gat.lines ∧ (replied (missReply e s)).iiu = s.iiu ∧
    (replied (missReply e s)).cfg = s.cfg := by
  have link := linkOnly_failedInst e s
  have forgot := forgetReading_forgotten c role (failedInst e s)
  have quiet := quiet_faultChamber (Quiet.refl (forgetReading c role (failedInst e s))) c .instrument
  rw [← missReply_chamber h third owner hr] at quiet
  obtain ⟨cfg, iiu⟩ := keeps_replied (missReply e s)
  have keep := keeps_missReply (Keeps.refl s) e
  refine ⟨?_, ?_, iiu.trans keep.iiu, cfg.trans keep.cfg⟩
  · have poll : (missReply e s).ilc.poll = (failedInst e s).ilc.poll := quiet.2.1.trans (congrArg Ilc.poll forgot.ilc)
    rw [instOf_replied, ← failedInst_inst (s := s) (e := e)]
    simp only [instOf, State.pollDyn, poll]
  · rw [replied_lines, quiet.1, forgot.gat, link.gat]

theorem chamberMiss_faults (alive : (s.ch c).state ≠ .offline ∧ (s.ch c).state ≠ .faulted) :
    FaultedWith (replied (missReply e s)) c .instrument ∧
    ∀ x, (s.ch c).state = .running → (s.ch c).exec = some x → ReportedAs (replied (missReply e s)) c x.record.id .instrument := by
  have ch : (failedInst e s).ch c = s.ch c := ch_of_csq c s (linkOnly_failedInst e s).csq
  have forgot := (forgetReading_forgotten c role (failedInst e s)).ch
  have state : ((forgetReading c role (failedInst e s)).ch c).state = (s.ch c).state := by rw [forgot, ch]
  have step : ((forgetReading c role (failedInst e s)).ch c).exec = (s.ch c).exec := by rw [forgot, ch]
  rw [missReply_chamber h third owner hr, ← state, ← step]
  exact faultChamber_replied (by rwa [state])

theorem chamberMiss_forgets (served : Served s) (gone : (s.ch c).state = .offline ∨ (s.ch c).state = .faulted) :
    ∃ u, Forgotten c role (failedInst e s) u ∧ LinkOnly u (replied (missReply e s)) ∧
      steadyOf (replied (missReply e s)) = steadyOf u := by
  have link := linkOnly_failedInst e s
  have ch : (failedInst e s).ch c = s.ch c := ch_of_csq c s link.csq
  have forgot := forgetReading_forgotten c role (failedInst e s)
  have still : Served (forgetReading c role (failedInst e s)) :=
    (congrArg Gat.serviceDue (forgot.gat.trans link.gat)).trans served
  have state : ((forgetReading c role (failedInst e s)).ch c).state = (s.ch c).state := by rw [forgot.ch, ch]
  have none : missReply e s = forgetReading c role (failedInst e s) := by
    rw [missReply_chamber h third owner hr]
    exact if_pos (by rwa [state])
  rw [none]
  refine ⟨_, forgot, linkOnly_replied_of_served still, ?_⟩
  rw [steadyOf_replied, runService_of_served still]

end

/-! ## The third miss of the FORELINE entry -/

section
variable {s : State} {e : EntryIx} (h : (s.pollDyn e).state ≠ .failed)
  (third : Config.missLimit ≤ (s.pollDyn e).misses + 1) (owner : ownerOf (s.cfg.poll.look e).owner = some .tool)
  (hr : roleOf (s.cfg.poll.look e).role = some .foreline)
include h third owner hr

theorem forelineMiss_frame : instOf (replied (missReply e s)) e = (.failed, Config.missLimit) ∧
    gaugeOf (replied (missReply e s)) = (none, false) ∧
    (replied (missReply e s)).gat.lines = s.gat.lines ∧ (replied (missReply e s)).iiu = s.iiu ∧
    (replied (missReply e s)).cfg = s.cfg := by
  have quiet := quiet_forelineFailed (Quiet.refl (failedInst e s))
  rw [← missReply_foreline h third owner hr] at quiet
  obtain ⟨cfg, iiu⟩ := keeps_replied (missReply e s)
  have keep := keeps_missReply (Keeps.refl s) e
  refine ⟨?_, ?_, ?_, iiu.trans keep.iiu, cfg.trans keep.cfg⟩
  · rw [instOf_replied, ← failedInst_inst (s := s) (e := e)]
    simp only [instOf, State.pollDyn, quiet.2.1]
  · rw [gaugeOf_replied, missReply_foreline h third owner hr, gaugeOf_forelineFailed]
  · rw [replied_lines, quiet.1, (linkOnly_failedInst e s).gat]

end

/-- The state the FORELINE entry's failure is told the holder in. -/
theorem gaugeLost_failedInst (e : EntryIx) (s : State) :
    (gaugeLost (failedInst e s)).fla = { s.fla with pressure := none, pause := false } ∧
    (gaugeLost (failedInst e s)).csq = s.csq ∧ (gaugeLost (failedInst e s)).gat = s.gat ∧
    (gaugeLost (failedInst e s)).now = s.now ∧ (gaugeLost (failedInst e s)).cfg = s.cfg := by
  have link := linkOnly_failedInst e s
  obtain ⟨csq, gat, _, now, cfg⟩ := gaugeLost_other (failedInst e s)
  exact ⟨by rw [gaugeLost_fla, link.fla], csq.trans link.csq, gat.trans link.gat, now.trans link.now, cfg.trans link.cfg⟩

section
variable {s : State} {e : EntryIx} (fails : missReply e s = forelineFailed (failedInst e s))
include fails

/-- Nobody holds the foreline: the gauge is lost, and that is all. -/
theorem forelineMiss_free (served : Served s) (free : s.fla.holder = none) :
    (replied (missReply e s)).csq = s.csq ∧ (replied (missReply e s)).fla = { s.fla with pressure := none, pause := false } := by
  obtain ⟨fla, csq, gat, _, _⟩ := gaugeLost_failedInst e s
  have holder : (gaugeLost (failedInst e s)).fla.holder = none := by rw [fla, ← free]
  have eq : missReply e s = gaugeLost (failedInst e s) := by
    rw [fails, forelineFailed_eq, holder]
  have link := linkOnly_replied_of_served (s := gaugeLost (failedInst e s)) ((congrArg Gat.serviceDue gat).trans served)
  rw [eq]
  exact ⟨link.csq.trans csq, link.fla.trans fla⟩

/-- A chamber that holds the foreline is faulted (R69). -/
theorem forelineMiss_chamber {c : Chamber} (holds : s.fla.holder = some (.chamber c))
    (alive : (s.ch c).state ≠ .offline ∧ (s.ch c).state ≠ .faulted) :
    FaultedWith (replied (missReply e s)) c .instrument ∧
    ∀ x, (s.ch c).state = .running → (s.ch c).exec = some x → ReportedAs (replied (missReply e s)) c x.record.id .instrument := by
  obtain ⟨fla, csq, _⟩ := gaugeLost_failedInst e s
  have holder : (gaugeLost (failedInst e s)).fla.holder = some (.chamber c) := by rw [fla, ← holds]
  have ch : (gaugeLost (failedInst e s)).ch c = s.ch c := ch_of_csq c s csq
  have eq : missReply e s = faultChamber c .instrument (gaugeLost (failedInst e s)) := by
    rw [fails, forelineFailed_eq, holder]
  rw [eq, ← ch]
  exact faultChamber_replied (by rwa [ch])

/-- A line that pumps out stops (R67, R69). -/
theorem forelineMiss_line (served : Served s) {l : Line} (holds : s.fla.holder = some (.line l))
    (counts : (s.fla.pumps.look l).countsOpen = true) :
    (replied (missReply e s)).csq = s.csq ∧ (replied (missReply e s)).fla.state = .handover ∧
    (replied (missReply e s)).fla.holder = none ∧
    (replied (missReply e s)).fla.pumps.look l = (s.fla.pumps.look l).commandClose s.now s.cfg.pumpTravel ∧
    (replied (missReply e s)).fla.toGat = s.fla.toGat ++ [(PumpMsg.stopped, l)] := by
  obtain ⟨fla, csq, gat, now, cfg⟩ := gaugeLost_failedInst e s
  have holder : (gaugeLost (failedInst e s)).fla.holder = some (.line l) := by rw [fla, ← holds]
  have eq : missReply e s = yieldPumpout (gaugeLost (failedInst e s)) := by
    rw [fails, forelineFailed_eq, holder]
  obtain ⟨csq', gat', state, none, pump, toGat⟩ := yieldPumpout_open holder (by rwa [fla])
  have link := linkOnly_replied_of_served (s := yieldPumpout (gaugeLost (failedInst e s)))
    ((congrArg Gat.serviceDue (gat'.trans gat)).trans served)
  rw [eq, link.csq, link.fla, csq', state, none, pump, toGat, fla, now, cfg]
  exact ⟨csq, rfl, rfl, rfl, rfl⟩

end

/-- Settles O60: every miss ends alike (exec_miss, replied), and what the third tells the owner's blocks outlasts the service run and
the next transaction (chamberMiss_faults, chamberMiss_forgets, forelineMiss_free, forelineMiss_chamber, forelineMiss_line). -/
theorem missedRepliesFailInstrument : Obligations.MissedRepliesFailInstrument := by
  intro s served
  refine ⟨fun none => ⟨idles_window served none, fun bs => idles_reply served fun x awaited => ?_⟩,
    fun x flight bs other => idles_reply served fun y awaited => ?_,
    fun x t flight old ends bs number => late_reply_idles served flight old ends number,
    fun x flight gone => ⟨fun bs => idles_reply served fun y awaited => ?_, discarded_ends served flight gone⟩,
    fun x c role flight live owner hr i miss => ⟨fun h few => ?_, fun h third offline faulted => ?_, fun h third gone => ?_,
      fun failed => ?_⟩,
    fun x flight live owner hr h third i miss => ?_⟩
  · exact nomatch none.symm.trans (awaits_eq_some awaited).1
  · obtain ⟨inFlight, number⟩ := awaits_eq_some awaited
    obtain rfl : x = y := Option.some.inj (flight.symm.trans inFlight)
    exact absurd number.symm other
  · obtain rfl : x = y := Option.some.inj (flight.symm.trans (awaits_eq_some awaited).1)
    exact gone
  · obtain ⟨link, inst⟩ := replied_modPoll served x.entry (fun d => { d with misses := (s.pollDyn x.entry).misses + 1 })
    rw [← missReply_counts h few] at link inst
    obtain ⟨misses, state⟩ := inst_of inst
    exact ⟨_, exec_miss flight live hr miss, misses, state, link.csq, link.fla, link.gat, link.iiu, link.cfg⟩
  · obtain ⟨inst, lines, iiu, cfg⟩ := chamberMiss_frame h third owner hr
    obtain ⟨misses, state⟩ := inst_of inst
    obtain ⟨faults, reports⟩ := chamberMiss_faults h third owner hr ⟨offline, faulted⟩
    exact ⟨_, exec_miss flight live hr miss, misses, state, faults, lines, iiu, cfg, reports⟩
  · obtain ⟨inst, _, iiu, cfg⟩ := chamberMiss_frame h third owner hr
    obtain ⟨misses, state⟩ := inst_of inst
    obtain ⟨u, forgot, link, steady⟩ := chamberMiss_forgets h third owner hr served gone
    have failed := linkOnly_failedInst x.entry s
    have ch (d : Chamber) : (replied (missReply x.entry s)).ch d = u.ch d := ch_of_csq d u link.csq
    have before (d : Chamber) : (failedInst x.entry s).ch d = s.ch d := ch_of_csq d s failed.csq
    have chan (k : Channel) := congrFun (congrFun steady c) k
    refine ⟨_, exec_miss flight live hr miss, misses, state, ?_, ?_, ?_, fun d ne => ?_, link.fla.trans (forgot.fla.trans failed.fla),
      link.gat.trans (forgot.gat.trans failed.gat), iiu, cfg, fun process => ?_, fun wide => ?_, fun k flow => ?_⟩
    · rw [ch, forgot.ch, before]
    · rw [ch, forgot.ch, before]
    · rw [ch, forgot.ch, before]
    · rw [ch, forgot.others d ne, before]
    · rw [ch, forgot.process process]
    · rw [ch, forgot.wide wide]
    · obtain ⟨lastTime, deviation⟩ := forgot.flow k flow
      exact ⟨(congrArg ChanCtx.lastTime (chan k)).trans lastTime, (congrArg ChanCtx.deviation (chan k)).trans deviation⟩
  · obtain ⟨link, inst⟩ := replied_modPoll served x.entry (fun d => { d with misses := Config.missLimit })
    rw [← missReply_failed failed] at link inst
    obtain ⟨misses, state⟩ := inst_of inst
    exact ⟨_, exec_miss flight live hr miss, state.trans failed, misses, link.csq, link.fla⟩
  · obtain ⟨inst, gauge, lines, iiu, cfg⟩ := forelineMiss_frame h third owner hr
    obtain ⟨misses, state⟩ := inst_of inst
    have fails := missReply_foreline h third owner hr
    exact ⟨_, exec_miss flight live hr miss, misses, state, congrArg Prod.fst gauge, congrArg Prod.snd gauge, lines, iiu, cfg,
      fun free => forelineMiss_free fails served free,
      fun c holds offline faulted => forelineMiss_chamber fails holds ⟨offline, faulted⟩,
      fun l holds counts => forelineMiss_line fails served holds counts⟩

end Sys2Proof.Machine
end
